-- ==== Sys2Proof/Word.lean ====
section
/-! DEFINITION. The widths of the block: register words, samples, addresses, operation words, event words
(spec/00_scope.md R3, R4; spec/30_encoding.md R42, R51). -/

namespace Sys2Proof

/-- A 16-bit register word; as a number in 6.10 it denotes `v / 1024` (R3, R7). Every pattern is a number. -/
abbrev Word := BitVec 16

/-- A raw ADC sample, 10 bits, an unsigned count from 0 to 1023 (R4, R16). -/
abbrev Sample := BitVec 10

/-- A register address, 5 bits, one per 16-bit word of the register space (R30). -/
abbrev Addr := BitVec 5

/-- An operation word `OPW[23:0]` (R42). -/
abbrev OpWord := BitVec 24

/-- An event word `EVW[19:0]` (R51). -/
abbrev EventWord := BitVec 20

/-- The rounded product of the multiplier before any slice: 22 bits (R58, R63). -/
abbrev Product := BitVec 22

/-- A divisor parameter: a 16-bit word that is not zero (R6). -/
abbrev Divisor := { w : Word // w ≠ 0 }

end Sys2Proof
end

