-- ==== Sys2Proof/Config.lean ====
section
/-! DEFINITION. The parameters of the block (spec/00_scope.md section 4, R3 to R6): the fixed ones as constants, the four
OPEN ones as a record that an instance of the machine carries. -/

namespace Sys2Proof.Config

/-- The fractional-bit count `F` (R3). -/
def fracBits : Nat := 10

/-- The value width `W` (R3). -/
def width : Nat := 16

/-- The ADC result width `ADC_BITS` (R4, D1). -/
def adcBits : Nat := 10

/-- The full-scale divisor `ADC_FULL_SCALE` of the calibration formulas (R4, D1); equal to `2^F`, so a raw sample read as a
6.10 pattern already denotes the quotient and no divider stands in the model. -/
def adcFullScale : Nat := 1024

/-- The reference voltage `REF_VOLT`, 3.3 V in 6.10 (R5). -/
def refVolt : Word := 0x0D33#16

/-- The four OPEN parameters of R6 (D2): constants for the life of an instance. The two full-scale set-points are divisors
and are non-zero by type (R6, U4; log 5). -/
structure Params where
  /-- `V_MAX_SP`: the voltage set-point (6.10) that maps to full-scale duty. -/
  vMaxSp  : Divisor
  /-- `I_MAX_SP`: the current set-point (6.10) that maps to full-scale duty. -/
  iMaxSp  : Divisor
  /-- `V_FS_DUTY`: the full-scale duty count of the voltage channel. -/
  vFsDuty : Word
  /-- `I_FS_DUTY`: the full-scale duty count of the current channel. -/
  iFsDuty : Word
deriving DecidableEq, Repr

/-- The reference parameter set `PSET0` of R6, which every vector of spec/95_test_vectors.md uses. -/
def pset0 : Params where
  vMaxSp  := ⟨0x8C00#16, by decide⟩
  iMaxSp  := ⟨0x0C00#16, by decide⟩
  vFsDuty := 0x2000#16
  iFsDuty := 0x2000#16

end Sys2Proof.Config
end

