-- ==== Sys2Proof/Syntax.lean ====
section
/-! DEFINITION. The instructions: one constructor per mnemonic of spec/opcode_table.json (the six rows of `RD.UNMAPPED` and the
six of `WR.UNMAPPED` are one constructor each, with the address as operand). The first 56 are the operations of
spec/43_operations.md, which words encode; the last 17 are the micro-operations a TICK runs (format `T-micro`), which have
no encoding of their own (spec/30_encoding.md R54; log 7). -/

namespace Sys2Proof

inductive Instr where
  /-- `IDLE` (R97). -/
  | idle
  /-- `RD CFG_OUTPUT` (R98). -/
  | rdCfgOutput
  /-- `RD CFG_VSET` (R98). -/
  | rdCfgVset
  /-- `RD CFG_CSET` (R98). -/
  | rdCfgCset
  /-- `RD CAL_VIN` (R98). -/
  | rdCalVin
  /-- `RD CAL_VOUT_A` (R98). -/
  | rdCalVoutA
  /-- `RD CAL_VOUT_B` (R98). -/
  | rdCalVoutB
  /-- `RD CAL_COUT_A` (R98). -/
  | rdCalCoutA
  /-- `RD CAL_COUT_B` (R98). -/
  | rdCalCoutB
  /-- `RD MUL_X` (R98). -/
  | rdMulX
  /-- `RD MUL_Y` (R98). -/
  | rdMulY
  /-- `RD MUL_P` (R98). -/
  | rdMulP
  /-- `RD MUL_PH` (R98). -/
  | rdMulPh
  /-- `RD RAW_COUT` (R98). -/
  | rdRawCout
  /-- `RD RAW_VOUT` (R98). -/
  | rdRawVout
  /-- `RD RAW_VIN` (R98). -/
  | rdRawVin
  /-- `RD COUT` (R98). -/
  | rdCout
  /-- `RD VOUT` (R98). -/
  | rdVout
  /-- `RD VIN` (R98). -/
  | rdVin
  /-- `RD ACC` (R98). -/
  | rdAcc
  /-- `RD SEQ_STAT` (R98). -/
  | rdSeqStat
  /-- `RD SPC_STAT` (R98). -/
  | rdSpcStat
  /-- `RD DUTY_V` (R98). -/
  | rdDutyV
  /-- `RD DUTY_I` (R98). -/
  | rdDutyI
  /-- `RD APPL_VSET` (R98). -/
  | rdApplVset
  /-- `RD APPL_CSET` (R98). -/
  | rdApplCset
  /-- `RD STATUS` (R98). -/
  | rdStatus
  /-- `RD` of an unmapped address (R110). -/
  | rdUnmapped (addr : Addr)
  /-- `WR CFG_OUTPUT, data` (R100). -/
  | wrCfgOutput (data : Word)
  /-- `WR CFG_VSET, data` (R99). -/
  | wrCfgVset (data : Word)
  /-- `WR CFG_CSET, data` (R99). -/
  | wrCfgCset (data : Word)
  /-- `WR CAL_VIN, data` (R99). -/
  | wrCalVin (data : Word)
  /-- `WR CAL_VOUT_A, data` (R99). -/
  | wrCalVoutA (data : Word)
  /-- `WR CAL_VOUT_B, data` (R99). -/
  | wrCalVoutB (data : Word)
  /-- `WR CAL_COUT_A, data` (R99). -/
  | wrCalCoutA (data : Word)
  /-- `WR CAL_COUT_B, data` (R99). -/
  | wrCalCoutB (data : Word)
  /-- `WR MUL_X, data` (R99). -/
  | wrMulX (data : Word)
  /-- `WR MUL_Y, data` (R99). -/
  | wrMulY (data : Word)
  /-- `WR MUL_P, data` (R111, read-only). -/
  | wrMulP (data : Word)
  /-- `WR MUL_PH, data` (R111, read-only). -/
  | wrMulPh (data : Word)
  /-- `WR RAW_COUT, data` (R111, read-only). -/
  | wrRawCout (data : Word)
  /-- `WR RAW_VOUT, data` (R111, read-only). -/
  | wrRawVout (data : Word)
  /-- `WR RAW_VIN, data` (R111, read-only). -/
  | wrRawVin (data : Word)
  /-- `WR COUT, data` (R111, read-only). -/
  | wrCout (data : Word)
  /-- `WR VOUT, data` (R111, read-only). -/
  | wrVout (data : Word)
  /-- `WR VIN, data` (R111, read-only). -/
  | wrVin (data : Word)
  /-- `WR ACC, data` (R111, read-only). -/
  | wrAcc (data : Word)
  /-- `WR SEQ_STAT, data` (R111, read-only). -/
  | wrSeqStat (data : Word)
  /-- `WR SPC_STAT, data` (R111, read-only). -/
  | wrSpcStat (data : Word)
  /-- `WR DUTY_V, data` (R111, read-only). -/
  | wrDutyV (data : Word)
  /-- `WR DUTY_I, data` (R111, read-only). -/
  | wrDutyI (data : Word)
  /-- `WR APPL_VSET, data` (R111, read-only). -/
  | wrApplVset (data : Word)
  /-- `WR APPL_CSET, data` (R111, read-only). -/
  | wrApplCset (data : Word)
  /-- `WR STATUS, data` (R101). -/
  | wrStatus (data : Word)
  /-- `WR` of an unmapped address (R110). -/
  | wrUnmapped (addr : Addr) (data : Word)
  /-- `TICK` with its sampled inputs `RDY`, `CC`, `AUX`, `RAW` (R47, R102). -/
  | tick (rdy cc aux : Bool) (raw : Sample)
  /-- `ADC.KICK` (R68). -/
  | adcKick
  /-- `ADC.DONE(RAW)` (R69). -/
  | adcDone (raw : Sample)
  /-- `ADC.WAIT` (R70). -/
  | adcWait
  /-- `CAL.I(RAW)` (R73). -/
  | calI (raw : Sample)
  /-- `CAL.VO(RAW)` (R74). -/
  | calVo (raw : Sample)
  /-- `CAL.VI(RAW)` (R75). -/
  | calVi (raw : Sample)
  /-- `DISP(RAW)` (R77). -/
  | disp (raw : Sample)
  /-- `FXMUL`, `fxmul_full(x, y)` (R58). -/
  | fxmul (x y : Word)
  /-- `SENSE`, first half, of the input `CC` (R79; log 11). -/
  | sense (cc : Bool)
  /-- `DIAG(AUX)`, the second half of `SENSE` (R80; log 11). -/
  | diag (aux : Bool)
  /-- `DUTY`, `duty16(sp, M, D)` (R84). -/
  | duty (sp m d : Word)
  /-- `PROG.V` (R86). -/
  | progV
  /-- `PROG.I` (R87). -/
  | progI
  /-- `SP.ENABLE` (R89). -/
  | spEnable
  /-- `SP.DISABLE` (R90). -/
  | spDisable
  /-- `SP.RECONCILE` (R91). -/
  | spReconcile
  /-- `SP.HOLD` (R92). -/
  | spHold
deriving DecidableEq, Repr

end Sys2Proof
end

