-- ==== Sys2Proof/Machine/State.lean ====
section
/-! DEFINITION. The state as plain data: the 29 registers and fields of spec/10_state.md R10 (`Regs`), and around them what a
deterministic step needs as data: the parameters of the instance, the input still to come, the response of the last
operation (`State`). The spec says that these last are not state of the block (R10); they are the model's own fields. -/

namespace Sys2Proof.Machine

open Sys2Proof.Config (Params)

/-! ### Channels, events, responses -/

/-- The ADC channel pointer's three legal values, in the cycle's order (R19, spec/30_encoding.md R52). The code 3 is
unreachable and has no value here (spec/93_implementation_defined.md U15; log 10). -/
inductive Channel where
  /-- `CH_CURRENT`, code 0. -/
  | current
  /-- `CH_VOLTAGE_OUT`, code 1. -/
  | voltageOut
  /-- `CH_VOLTAGE_IN`, code 2. -/
  | voltageIn
deriving DecidableEq, Repr

/-- The drive channel of a `DRIVE` event (R53): 0 is voltage, 1 is current. -/
inductive DriveChannel where
  | voltage
  | current
deriving DecidableEq, Repr

/-- One call of the block to a collaborator (R50). -/
inductive Event where
  /-- `ADC_START(ch)`. -/
  | adcStart (ch : Channel)
  /-- `ADC_READ`; the sample it answers is the `RAW` of the same TICK word. -/
  | adcRead
  /-- `DRIVE(dch, duty)`. -/
  | drive (dch : DriveChannel) (duty : Word)
  /-- `OUT_EN(level)`. -/
  | outEn (level : Bool)
  /-- `DISPLAY(d3, d2, d1, d0)`: four decimal digits, thousands first. -/
  | display (d3 d2 d1 d0 : Fin 10)
  /-- `DIAG_AUX(level)`. -/
  | diagAux (level : Bool)
deriving DecidableEq, Repr

/-- The error code of a response (R49, spec/60_exceptions.md R109). -/
inductive ECode where
  /-- 0: no error. -/
  | ok
  /-- 1, `ERR_UNMAPPED`. -/
  | unmapped
  /-- 2, `ERR_READONLY`. -/
  | readOnly
  /-- 3, `ERR_MALFORMED`. -/
  | malformed
deriving DecidableEq, Repr

/-- The response of an operation: `(rdata, ecode, events)` (R49). -/
structure Response where
  rdata  : Word
  ecode  : ECode
  events : List Event
deriving DecidableEq, Repr

/-- The response `(0x0000, 0, [])`. -/
def Response.empty : Response := ⟨0, .ok, []⟩

/-- What is presented to the block at one step: an operation word (R8, R42), or reset, which is an event outside the
operation stream (spec/70_reset_and_hazards.md R123; log 3). -/
inductive Input where
  | word (w : OpWord)
  | reset
deriving DecidableEq, Repr

/-! ### The architectural state: exactly the table of R10, in its order -/

structure Regs where
  /-- `CFG_EN`, bit 0 of `CFG_OUTPUT` (R11). -/
  cfgEn    : Bool
  /-- `CFG_VSET`, target voltage (R12). -/
  cfgVset  : Word
  /-- `CFG_CSET`, target current (R12). -/
  cfgCset  : Word
  /-- `CAL_VIN`, input-voltage scale (R13). -/
  calVin   : Word
  /-- `CAL_VOUT_A`, output-voltage gain (R13). -/
  calVoutA : Word
  /-- `CAL_VOUT_B`, output-voltage offset (R13). -/
  calVoutB : Word
  /-- `CAL_COUT_A`, output-current gain (R13). -/
  calCoutA : Word
  /-- `CAL_COUT_B`, output-current offset (R13). -/
  calCoutB : Word
  /-- `MUL_X`, operand of the multiplier port (R14). -/
  mulX     : Word
  /-- `MUL_Y`, operand of the multiplier port (R14). -/
  mulY     : Word
  /-- `RAW_COUT`, last raw output-current sample (R16). -/
  rawCout  : Sample
  /-- `RAW_VOUT`, last raw output-voltage sample (R16). -/
  rawVout  : Sample
  /-- `RAW_VIN`, last raw input-voltage sample (R16). -/
  rawVin   : Sample
  /-- `COUT`, calibrated output current (R17). -/
  cout     : Word
  /-- `VOUT`, calibrated output voltage (R17). -/
  vout     : Word
  /-- `VIN`, calibrated input voltage (R17). -/
  vin      : Word
  /-- `ACC`, the calibration accumulator (R18). -/
  acc      : Word
  /-- `CH`, the channel pointer (R19). -/
  ch       : Channel
  /-- `BUSY`: a conversion is in flight (R20). -/
  busy     : Bool
  /-- `CC_ACTIVE`: the level of `CC` at the last tick (R21). -/
  ccActive : Bool
  /-- `AUX_LAST`: the level of `AUX` at the last tick (R21). -/
  auxLast  : Bool
  /-- `OUT_ON`: the state of the enable/disable FSM, 1 is `ON` (R22). -/
  outOn    : Bool
  /-- `DUTY_V`, last duty written to the voltage channel (R23). -/
  dutyV    : Word
  /-- `DUTY_I`, last duty written to the current channel (R23). -/
  dutyI    : Word
  /-- `APPL_VSET`, set-point last applied to the voltage channel (R23). -/
  applVset : Word
  /-- `APPL_CSET`, set-point last applied to the current channel (R23). -/
  applCset : Word
  /-- `CAL_OVF`, `STATUS` bit 0, sticky (R24). -/
  calOvf   : Bool
  /-- `CAL_UNF`, `STATUS` bit 1, sticky (R24). -/
  calUnf   : Bool
  /-- `DUTY_OVF`, `STATUS` bit 2, sticky (R24). -/
  dutyOvf  : Bool
deriving DecidableEq, Repr

/-- Every register and field is 0 after reset (R28): `CH` at `CH_CURRENT`, `OUT_ON` at `OFF`. -/
def Regs.reset : Regs where
  cfgEn := false
  cfgVset := 0
  cfgCset := 0
  calVin := 0
  calVoutA := 0
  calVoutB := 0
  calCoutA := 0
  calCoutB := 0
  mulX := 0
  mulY := 0
  rawCout := 0
  rawVout := 0
  rawVin := 0
  cout := 0
  vout := 0
  vin := 0
  acc := 0
  ch := .current
  busy := false
  ccActive := false
  auxLast := false
  outOn := false
  dutyV := 0
  dutyI := 0
  applVset := 0
  applCset := 0
  calOvf := false
  calUnf := false
  dutyOvf := false

/-! ### The machine's state -/

structure State where
  /-- The block's architectural state. -/
  regs    : Regs
  /-- The parameters of this instance; no step changes them (spec/00_scope.md R6; log 4). -/
  params  : Params
  /-- What is still to be presented to the block, oldest first (R8, spec/43_operations.md R106; log 1). -/
  pending : List Input
  /-- The response of the last operation (R49; log 6). -/
  resp    : Response
  /-- The value that `FXMUL` or `DUTY` answers when that micro-operation is run on its own, and 0 after every other
  instruction; not observable by the host (R29; log 8). -/
  value   : Product
deriving DecidableEq, Repr

/-- The machine right after reset with the parameters `p`: every register 0 (R28), nothing presented yet, no event
(spec/70_reset_and_hazards.md R123, R124). -/
def State.resetWith (p : Params) : State where
  regs := Regs.reset
  params := p
  pending := []
  resp := Response.empty
  value := 0

/-- The machine right after reset. The OPEN parameters are at the reference set `PSET0` (DESIGN CHOICE, log 4). -/
def State.reset : State := State.resetWith Sys2Proof.Config.pset0

/-! ### Reasons a step can stop -/

/-- Nothing stops the block: "nothing in this core aborts the control loop" (R106, spec/60_exceptions.md R113, R116). A
refused access is a response with an error code, which is a next state. So there is no fault (log 16); safe. -/
inductive Fault : Type where
deriving DecidableEq, Repr

/-- Why an instruction is refused. -/
inductive Refusal where
  /-- Raised by an arm of `exec` whose instruction has no meaning yet; no arm is. Safe. -/
  | notModelled (mnemonic : String)
  /-- Raised by `DUTY` with the divisor 0, which spec/93_implementation_defined.md U4 says to refuse (R84: `M ≠ 0`; log 9).
  No operation word runs it, since the divisors of the instance are not 0. Safe. -/
  | zeroFullScale
deriving DecidableEq, Repr

end Sys2Proof.Machine
end

