-- ==== Sys2Proof/Machine/Ops.lean ====
section
/-! DEFINITION. The named operations over the state that every meaning is written with: starting an operation, writing the
registers, emitting an event, answering a read, raising a bus error, and reset. -/

namespace Sys2Proof.Machine

/-- The start of an operation: its response is `(0x0000, 0, [])` until it says otherwise (spec/30_encoding.md R49), and
nothing of the operation before it is left (spec/10_state.md R10, R29). -/
def State.start (s : State) : State := { s with resp := Response.empty, value := 0 }

/-- `r[NAME] <- v`, for the registers that `r` differs in. -/
def State.withRegs (s : State) (r : Regs) : State := { s with regs := r }

/-- `emit EVENT(args)`: one event at the end of the operation's ordered list (R50). -/
def State.emit (s : State) (e : Event) : State :=
  { s with resp := { s.resp with events := s.resp.events ++ [e] } }

/-- The answer of a successful RD: `(d, 0, [])` (spec/43_operations.md R98). -/
def State.answer (s : State) (d : Word) : State := { s with resp := ⟨d, .ok, []⟩ }

/-- What a value-returning micro-operation answers when it is run on its own (log 8). -/
def State.withValue (s : State) (v : Product) : State := { s with value := v }

/-- `raise BusError(code)`: the whole of what the block has for an exception (spec/60_exceptions.md R109, R116). The registers are
what they were, no event is emitted, `rdata` is 0; nothing is saved, no handler is entered, and the next operation word
is executed normally. There is nothing to return from (R117), so no return stands beside it. -/
def State.raiseBusError (s : State) (c : ECode) : State := { s with resp := ⟨0, c, []⟩ }

/-- Reset: every register takes its reset value and no event is emitted; the parameters of the instance and the input
still to come are not touched (spec/70_reset_and_hazards.md R123, R124; log 3). -/
def State.applyReset (s : State) : State :=
  { s with regs := Regs.reset, resp := Response.empty, value := 0 }

end Sys2Proof.Machine
end

