-- ==== Sys2Proof/Machine/Flags.lean ====
section
/-! DEFINITION. The three sticky flags of `STATUS` (spec/10_state.md R24): when each is set, and how the host clears them.
The block has no other flag and no rule reads one of these. -/

namespace Sys2Proof.Machine

/-- `CAL_OVF` is set when the product by `REF_VOLT` is 2^16 or more (spec/41_sequencer.md R72). -/
def calOverflows (p : Product) : Bool := decide (2 ^ 16 ≤ p.toNat)

/-- `CAL_UNF` is set when the scaled value is less than the offset (R72). -/
def calBorrows (scaled offset : Word) : Bool := decide (scaled.toNat < offset.toNat)

/-- `DUTY_OVF` is set when a duty is 2^16 or more (spec/42_setpoint.md R84). -/
def dutyOverflows (q : BitVec 32) : Bool := decide (2 ^ 16 ≤ q.toNat)

/-- The word `STATUS`: `{0[15:3], DUTY_OVF, CAL_UNF, CAL_OVF}` (spec/20_memory.md R33). -/
def statusWord (r : Regs) : Word :=
  (0#13 ++ BitVec.ofBool r.dutyOvf ++ BitVec.ofBool r.calUnf ++ BitVec.ofBool r.calOvf : BitVec 16)

/-- Write-one-to-clear: a flag is cleared where the bit of `d` is 1 and kept where it is 0; `d[15:3]` is discarded
(spec/43_operations.md R101). -/
def clearFlags (d : Word) (r : Regs) : Regs :=
  { r with
    calOvf := r.calOvf && !d.getLsbD 0
    calUnf := r.calUnf && !d.getLsbD 1
    dutyOvf := r.dutyOvf && !d.getLsbD 2 }

end Sys2Proof.Machine
end

