-- ==== Sys2Proof/Machine/Fxm.lean ====
section
/-! DEFINITION. FXM, the 6.10 fixed-point multiplier (spec/40_fxmul.md). -/

namespace Sys2Proof.Machine

/-- `fxmul_full(x, y)`: the double-width product shifted right by `F - 1`, its lowest bit taken as the rounding bit, shifted
right once more, and the rounding bit added (R58). 22 bits hold every result (R63). -/
def fxmulFull (x y : Word) : Product :=
  let t := x.toNat * y.toNat
  let t1 := t >>> (Config.fracBits - 1)
  let rb := t1 % 2
  let q := t1 >>> 1
  BitVec.ofNat 22 (q + rb)

/-- `mul16(x, y)`: the low 16 bits of the rounded product (R59). -/
def mul16 (x y : Word) : Word := (fxmulFull x y).extractLsb' 0 16

/-- `mul_ovf(x, y)`: the rounded product does not fit 16 bits (R59). -/
def mulOvf (x y : Word) : Bool := decide (2 ^ 16 ≤ (fxmulFull x y).toNat)

/-- The view `MUL_P` (spec/10_state.md R15). -/
def mulP (r : Regs) : Word := (fxmulFull r.mulX r.mulY).extractLsb' 0 16

/-- The view `MUL_PH`: bits 21:16 of the product, zero-extended (R15). -/
def mulPh (r : Regs) : Word := ((fxmulFull r.mulX r.mulY).extractLsb' 16 6).zeroExtend 16

/-- `FXMUL` run on its own: it touches no register and answers the 22-bit product (R58; log 7, log 8). -/
def execFxmul (x y : Word) (s : State) : Host.Outcome State Fault Refusal :=
  .next (s.start.withValue (fxmulFull x y))

end Sys2Proof.Machine
end

