-- ==== Sys2Proof/Machine/Operands.lean ====
section
/-! DEFINITION. The register space the host reaches with RD and WR: the address map, the host's access rights, and the access
primitives `RegRead` and `RegWrite` (spec/20_memory.md R32 to R34). -/

namespace Sys2Proof.Machine

/-- A mapped word of the register space, by the name R32 gives it. -/
inductive Reg where
  /-- `CFG_OUTPUT`, address 0x00. -/
  | cfgOutput
  /-- `CFG_VSET`, address 0x01. -/
  | cfgVset
  /-- `CFG_CSET`, address 0x02. -/
  | cfgCset
  /-- `CAL_VIN`, address 0x04. -/
  | calVin
  /-- `CAL_VOUT_A`, address 0x05. -/
  | calVoutA
  /-- `CAL_VOUT_B`, address 0x06. -/
  | calVoutB
  /-- `CAL_COUT_A`, address 0x07. -/
  | calCoutA
  /-- `CAL_COUT_B`, address 0x08. -/
  | calCoutB
  /-- `MUL_X`, address 0x0C. -/
  | mulX
  /-- `MUL_Y`, address 0x0D. -/
  | mulY
  /-- `MUL_P`, address 0x0E. -/
  | mulP
  /-- `MUL_PH`, address 0x0F. -/
  | mulPh
  /-- `RAW_COUT`, address 0x10. -/
  | rawCout
  /-- `RAW_VOUT`, address 0x11. -/
  | rawVout
  /-- `RAW_VIN`, address 0x12. -/
  | rawVin
  /-- `COUT`, address 0x14. -/
  | cout
  /-- `VOUT`, address 0x15. -/
  | vout
  /-- `VIN`, address 0x16. -/
  | vin
  /-- `ACC`, address 0x17. -/
  | acc
  /-- `SEQ_STAT`, address 0x18. -/
  | seqStat
  /-- `SPC_STAT`, address 0x19. -/
  | spcStat
  /-- `DUTY_V`, address 0x1A. -/
  | dutyV
  /-- `DUTY_I`, address 0x1B. -/
  | dutyI
  /-- `APPL_VSET`, address 0x1C. -/
  | applVset
  /-- `APPL_CSET`, address 0x1D. -/
  | applCset
  /-- `STATUS`, address 0x1E. -/
  | status
deriving DecidableEq, Repr

/-- The host's access right to a mapped address (R32, R37). -/
inductive Access where
  /-- Read and write. -/
  | rw
  /-- Read-only: a host write is a bus error with code 2. -/
  | ro
  /-- Read, and write 1 to clear. -/
  | w1c
deriving DecidableEq, Repr

/-- The address map of R32; `none` for the six unmapped addresses. -/
def regAt (a : Addr) : Option Reg :=
  match a.toNat with
  | 0x00 => some .cfgOutput
  | 0x01 => some .cfgVset
  | 0x02 => some .cfgCset
  | 0x04 => some .calVin
  | 0x05 => some .calVoutA
  | 0x06 => some .calVoutB
  | 0x07 => some .calCoutA
  | 0x08 => some .calCoutB
  | 0x0C => some .mulX
  | 0x0D => some .mulY
  | 0x0E => some .mulP
  | 0x0F => some .mulPh
  | 0x10 => some .rawCout
  | 0x11 => some .rawVout
  | 0x12 => some .rawVin
  | 0x14 => some .cout
  | 0x15 => some .vout
  | 0x16 => some .vin
  | 0x17 => some .acc
  | 0x18 => some .seqStat
  | 0x19 => some .spcStat
  | 0x1A => some .dutyV
  | 0x1B => some .dutyI
  | 0x1C => some .applVset
  | 0x1D => some .applCset
  | 0x1E => some .status
  | _ => none

/-- The access column of R32. -/
def Reg.access : Reg → Access
  | .cfgOutput => .rw
  | .cfgVset => .rw
  | .cfgCset => .rw
  | .calVin => .rw
  | .calVoutA => .rw
  | .calVoutB => .rw
  | .calCoutA => .rw
  | .calCoutB => .rw
  | .mulX => .rw
  | .mulY => .rw
  | .mulP => .ro
  | .mulPh => .ro
  | .rawCout => .ro
  | .rawVout => .ro
  | .rawVin => .ro
  | .cout => .ro
  | .vout => .ro
  | .vin => .ro
  | .acc => .ro
  | .seqStat => .ro
  | .spcStat => .ro
  | .dutyV => .ro
  | .dutyI => .ro
  | .applVset => .ro
  | .applCset => .ro
  | .status => .w1c

/-- The 2-bit code of a channel (spec/30_encoding.md R52). -/
def Channel.code : Channel → BitVec 2
  | .current => 0b00#2
  | .voltageOut => 0b01#2
  | .voltageIn => 0b10#2

/-- The view `SEQ_STAT`: `{0[15:5], AUX_LAST, CC_ACTIVE, BUSY, CH}` (spec/10_state.md R15). -/
def seqStat (r : Regs) : Word :=
  (0#11 ++ BitVec.ofBool r.auxLast ++ BitVec.ofBool r.ccActive ++ BitVec.ofBool r.busy ++ r.ch.code : BitVec 16)

/-- The view `SPC_STAT`: `{0[15:1], OUT_ON}` (R15). -/
def spcStat (r : Regs) : Word := (0#15 ++ BitVec.ofBool r.outOn : BitVec 16)

/-- `RegRead` of a mapped address: the register zero-extended, or the view computed at the read (R33). It changes nothing. -/
def regRead (x : Reg) (r : Regs) : Word :=
  match x with
  | .cfgOutput => (BitVec.ofBool r.cfgEn).zeroExtend 16
  | .cfgVset => r.cfgVset
  | .cfgCset => r.cfgCset
  | .calVin => r.calVin
  | .calVoutA => r.calVoutA
  | .calVoutB => r.calVoutB
  | .calCoutA => r.calCoutA
  | .calCoutB => r.calCoutB
  | .mulX => r.mulX
  | .mulY => r.mulY
  | .mulP => mulP r
  | .mulPh => mulPh r
  | .rawCout => r.rawCout.zeroExtend 16
  | .rawVout => r.rawVout.zeroExtend 16
  | .rawVin => r.rawVin.zeroExtend 16
  | .cout => r.cout
  | .vout => r.vout
  | .vin => r.vin
  | .acc => r.acc
  | .seqStat => seqStat r
  | .spcStat => spcStat r
  | .dutyV => r.dutyV
  | .dutyI => r.dutyI
  | .applVset => r.applVset
  | .applCset => r.applCset
  | .status => statusWord r

/-- `RegWrite` of a host-writable address (R34): the register takes `d`; `CFG_OUTPUT` keeps bit 0 only
(spec/43_operations.md R100); `STATUS` clears flags (R101). The rule defines no write of a read-only address, and
`State.hostWrite` never asks for one: nothing is written. -/
def regWrite (x : Reg) (d : Word) (r : Regs) : Regs :=
  match x with
  | .cfgOutput => { r with cfgEn := d.getLsbD 0 }
  | .cfgVset => { r with cfgVset := d }
  | .cfgCset => { r with cfgCset := d }
  | .calVin => { r with calVin := d }
  | .calVoutA => { r with calVoutA := d }
  | .calVoutB => { r with calVoutB := d }
  | .calCoutA => { r with calCoutA := d }
  | .calCoutB => { r with calCoutB := d }
  | .mulX => { r with mulX := d }
  | .mulY => { r with mulY := d }
  | .status => clearFlags d r
  | .mulP | .mulPh | .rawCout | .rawVout | .rawVin | .cout | .vout | .vin
  | .acc | .seqStat | .spcStat | .dutyV | .dutyI | .applVset | .applCset => r

/-- A host read of a mapped register (R98). -/
def State.hostRead (s : State) (x : Reg) : State := s.start.answer (regRead x s.regs)

/-- A host write of a mapped register (R99): refused with code 2 where it is read-only, else done. -/
def State.hostWrite (s : State) (x : Reg) (d : Word) : State :=
  match x.access with
  | .ro => s.start.raiseBusError .readOnly
  | .rw | .w1c => s.start.withRegs (regWrite x d s.regs)

/-- A host access to an unmapped address (spec/60_exceptions.md R110). -/
def State.hostUnmapped (s : State) : State := s.start.raiseBusError .unmapped

end Sys2Proof.Machine
end

