-- ==== Sys2Proof/Machine/Rd.lean ====
section
/-! DEFINITION. The meanings of the RD operations (spec/43_operations.md R98; spec/60_exceptions.md R110). A read has no
side effect on the registers. -/

namespace Sys2Proof.Machine

/-- `RD CFG_OUTPUT` (R98). -/
def execRdCfgOutput (s : State) : Host.Outcome State Fault Refusal := .next (s.hostRead .cfgOutput)

/-- `RD CFG_VSET` (R98). -/
def execRdCfgVset (s : State) : Host.Outcome State Fault Refusal := .next (s.hostRead .cfgVset)

/-- `RD CFG_CSET` (R98). -/
def execRdCfgCset (s : State) : Host.Outcome State Fault Refusal := .next (s.hostRead .cfgCset)

/-- `RD CAL_VIN` (R98). -/
def execRdCalVin (s : State) : Host.Outcome State Fault Refusal := .next (s.hostRead .calVin)

/-- `RD CAL_VOUT_A` (R98). -/
def execRdCalVoutA (s : State) : Host.Outcome State Fault Refusal := .next (s.hostRead .calVoutA)

/-- `RD CAL_VOUT_B` (R98). -/
def execRdCalVoutB (s : State) : Host.Outcome State Fault Refusal := .next (s.hostRead .calVoutB)

/-- `RD CAL_COUT_A` (R98). -/
def execRdCalCoutA (s : State) : Host.Outcome State Fault Refusal := .next (s.hostRead .calCoutA)

/-- `RD CAL_COUT_B` (R98). -/
def execRdCalCoutB (s : State) : Host.Outcome State Fault Refusal := .next (s.hostRead .calCoutB)

/-- `RD MUL_X` (R98). -/
def execRdMulX (s : State) : Host.Outcome State Fault Refusal := .next (s.hostRead .mulX)

/-- `RD MUL_Y` (R98). -/
def execRdMulY (s : State) : Host.Outcome State Fault Refusal := .next (s.hostRead .mulY)

/-- `RD MUL_P` (R98). -/
def execRdMulP (s : State) : Host.Outcome State Fault Refusal := .next (s.hostRead .mulP)

/-- `RD MUL_PH` (R98). -/
def execRdMulPh (s : State) : Host.Outcome State Fault Refusal := .next (s.hostRead .mulPh)

/-- `RD RAW_COUT` (R98). -/
def execRdRawCout (s : State) : Host.Outcome State Fault Refusal := .next (s.hostRead .rawCout)

/-- `RD RAW_VOUT` (R98). -/
def execRdRawVout (s : State) : Host.Outcome State Fault Refusal := .next (s.hostRead .rawVout)

/-- `RD RAW_VIN` (R98). -/
def execRdRawVin (s : State) : Host.Outcome State Fault Refusal := .next (s.hostRead .rawVin)

/-- `RD COUT` (R98). -/
def execRdCout (s : State) : Host.Outcome State Fault Refusal := .next (s.hostRead .cout)

/-- `RD VOUT` (R98). -/
def execRdVout (s : State) : Host.Outcome State Fault Refusal := .next (s.hostRead .vout)

/-- `RD VIN` (R98). -/
def execRdVin (s : State) : Host.Outcome State Fault Refusal := .next (s.hostRead .vin)

/-- `RD ACC` (R98). -/
def execRdAcc (s : State) : Host.Outcome State Fault Refusal := .next (s.hostRead .acc)

/-- `RD SEQ_STAT` (R98). -/
def execRdSeqStat (s : State) : Host.Outcome State Fault Refusal := .next (s.hostRead .seqStat)

/-- `RD SPC_STAT` (R98). -/
def execRdSpcStat (s : State) : Host.Outcome State Fault Refusal := .next (s.hostRead .spcStat)

/-- `RD DUTY_V` (R98). -/
def execRdDutyV (s : State) : Host.Outcome State Fault Refusal := .next (s.hostRead .dutyV)

/-- `RD DUTY_I` (R98). -/
def execRdDutyI (s : State) : Host.Outcome State Fault Refusal := .next (s.hostRead .dutyI)

/-- `RD APPL_VSET` (R98). -/
def execRdApplVset (s : State) : Host.Outcome State Fault Refusal := .next (s.hostRead .applVset)

/-- `RD APPL_CSET` (R98). -/
def execRdApplCset (s : State) : Host.Outcome State Fault Refusal := .next (s.hostRead .applCset)

/-- `RD STATUS` (R98). -/
def execRdStatus (s : State) : Host.Outcome State Fault Refusal := .next (s.hostRead .status)

/-- `RD` of an unmapped address: `ERR_UNMAPPED` (R110). The address is not latched (R109). -/
def execRdUnmapped (_addr : Addr) (s : State) : Host.Outcome State Fault Refusal := .next s.hostUnmapped

end Sys2Proof.Machine
end

