-- ==== Sys2Proof/Machine/Seq.lean ====
section
/-! DEFINITION. SEQ, the ADC sampling sequencer and its calibration accumulator (spec/41_sequencer.md). Each micro-operation is
stated once; `execX` is the same micro-operation run on its own (log 7). -/

namespace Sys2Proof.Machine

/-! ### The calibration accumulator (R72) -/

/-- `ACC.SCALE(RAW, g)`: the raw count, by the gain, by `REF_VOLT`; each product rounds (R72). -/
def accScale (raw : Sample) (g : Word) (r : Regs) : Regs :=
  let first := mul16 (raw.zeroExtend 16) g
  let p := fxmulFull first Config.refVolt
  { r with acc := p.extractLsb' 0 16, calOvf := r.calOvf || calOverflows p }

/-- `ACC.OFFSET(b)`: subtraction modulo 2^16, a borrow recorded in `CAL_UNF` (R72). -/
def accOffset (b : Word) (r : Regs) : Regs :=
  { r with acc := r.acc - b, calUnf := r.calUnf || calBorrows r.acc b }

/-! ### The three calibrations -/

/-- `CAL.I(RAW)` (R73). -/
def calI (raw : Sample) (s : State) : State :=
  let r := accOffset s.regs.calCoutB (accScale raw s.regs.calCoutA { s.regs with rawCout := raw })
  s.withRegs { r with cout := r.acc }

/-- `CAL.VO(RAW)` (R74). -/
def calVo (raw : Sample) (s : State) : State :=
  let r := accOffset s.regs.calVoutB (accScale raw s.regs.calVoutA { s.regs with rawVout := raw })
  s.withRegs { r with vout := r.acc }

/-- `DISP(RAW)`: the four decimal digits of the raw sample, thousands first (R77). -/
def disp (raw : Sample) (s : State) : State :=
  s.emit (.display (Fin.ofNat 10 (raw.toNat / 1000)) (Fin.ofNat 10 (raw.toNat / 100)) (Fin.ofNat 10 (raw.toNat / 10))
    (Fin.ofNat 10 raw.toNat))

/-- `CAL.VI(RAW)`: no offset, and the digits of the raw sample go to the display (R75; log 12). -/
def calVi (raw : Sample) (s : State) : State :=
  let r := accScale raw s.regs.calVin { s.regs with rawVin := raw }
  disp raw (s.withRegs { r with vin := r.acc })

/-! ### The channel cycle -/

/-- The channel advance `(CH + 1) mod 3` (R76). -/
def Channel.next : Channel → Channel
  | .current => .voltageOut
  | .voltageOut => .voltageIn
  | .voltageIn => .current

/-- The calibration of the channel in flight (the `case` of R69). -/
def calibrate (raw : Sample) (s : State) : State :=
  match s.regs.ch with
  | .current => calI raw s
  | .voltageOut => calVo raw s
  | .voltageIn => calVi raw s

/-- The channel advance and the start of its conversion (R69, R76). -/
def advance (s : State) : State :=
  let t := s.withRegs { s.regs with ch := s.regs.ch.next }
  t.emit (.adcStart t.regs.ch)

/-- `ADC.KICK` (R68). -/
def adcKick (s : State) : State :=
  let t := s.emit (.adcStart s.regs.ch)
  t.withRegs { t.regs with busy := true }

/-- `ADC.DONE(RAW)` (R69). -/
def adcDone (raw : Sample) (s : State) : State := advance (calibrate raw (s.emit .adcRead))

/-- `ADC.WAIT` does nothing (R70). -/
def adcWait (s : State) : State := s

/-! ### The sense inputs -/

/-- `SENSE`, first half: the level as it is, without inversion (R79). -/
def sense (cc : Bool) (s : State) : State := s.withRegs { s.regs with ccActive := cc }

/-- `DIAG(AUX)`: an event on a change in either direction (R80). -/
def diag (aux : Bool) (s : State) : State :=
  if aux ≠ s.regs.auxLast then
    let t := s.emit (.diagAux aux)
    t.withRegs { t.regs with auxLast := aux }
  else s

/-- The ADC micro-operation of a tick, chosen by `BUSY` and `RDY` as they are at its start (R67). -/
def adcStep (rdy : Bool) (raw : Sample) (s : State) : State :=
  if s.regs.busy = false then adcKick s
  else if rdy = true then adcDone raw s
  else adcWait s

/-- `SEQ.STEP(RDY, RAW, CC, AUX)` (R67); `SENSE` is its two halves, R79 and R80. -/
def seqStep (rdy : Bool) (raw : Sample) (cc aux : Bool) (s : State) : State :=
  diag aux (sense cc (adcStep rdy raw s))

/-! ### The micro-operations run on their own -/

/-- `ADC.KICK` (R68). -/
def execAdcKick (s : State) : Host.Outcome State Fault Refusal := .next (adcKick s.start)

/-- `ADC.DONE(RAW)` (R69). -/
def execAdcDone (raw : Sample) (s : State) : Host.Outcome State Fault Refusal := .next (adcDone raw s.start)

/-- `ADC.WAIT` (R70). -/
def execAdcWait (s : State) : Host.Outcome State Fault Refusal := .next (adcWait s.start)

/-- `CAL.I(RAW)` (R73). -/
def execCalI (raw : Sample) (s : State) : Host.Outcome State Fault Refusal := .next (calI raw s.start)

/-- `CAL.VO(RAW)` (R74). -/
def execCalVo (raw : Sample) (s : State) : Host.Outcome State Fault Refusal := .next (calVo raw s.start)

/-- `CAL.VI(RAW)` (R75). -/
def execCalVi (raw : Sample) (s : State) : Host.Outcome State Fault Refusal := .next (calVi raw s.start)

/-- `DISP(RAW)` (R77). -/
def execDisp (raw : Sample) (s : State) : Host.Outcome State Fault Refusal := .next (disp raw s.start)

/-- `SENSE`, first half (R79). -/
def execSense (cc : Bool) (s : State) : Host.Outcome State Fault Refusal := .next (sense cc s.start)

/-- `DIAG(AUX)` (R80). -/
def execDiag (aux : Bool) (s : State) : Host.Outcome State Fault Refusal := .next (diag aux s.start)

end Sys2Proof.Machine
end

