-- ==== Sys2Proof/Machine/Spc.lean ====
section
/-! DEFINITION. SPC, the PWM set-point controller with its enable/disable FSM (spec/42_setpoint.md). It reads `CFG_EN`, the
targets, its own registers and the parameters, and nothing of SEQ (R83). Each micro-operation is stated once; `execX` is the
same micro-operation run on its own (log 7). -/

namespace Sys2Proof.Machine

/-! ### The duty computation (R84) -/

/-- `duty_full(sp, M, D)` in the source's two steps: the quotient with `F` fraction bits, then its integer part (R84). It is
used only with `M ≠ 0` (R6). -/
def dutyFull (sp m d : Word) : BitVec 32 :=
  let t := sp.toNat * d.toNat
  let qf := (t <<< Config.fracBits) / m.toNat
  BitVec.ofNat 32 (qf >>> Config.fracBits)

/-- `duty16(sp, M, D)`, the value: the low 16 bits (R84). -/
def duty16 (sp m d : Word) : Word := (dutyFull sp m d).extractLsb' 0 16

/-- `duty16(sp, M, D)`, the flag: `DUTY_OVF` is set where bits are lost, and never cleared (R84). -/
def noteDuty (sp m d : Word) (r : Regs) : Regs :=
  { r with dutyOvf := r.dutyOvf || dutyOverflows (dutyFull sp m d) }

/-! ### Programming a channel -/

/-- `PROG.V` (R86). -/
def progV (s : State) : State :=
  let m := s.params.vMaxSp.val
  let r := noteDuty s.regs.cfgVset m s.params.vFsDuty s.regs
  let t := s.withRegs { r with dutyV := duty16 s.regs.cfgVset m s.params.vFsDuty }
  let u := t.emit (.drive .voltage t.regs.dutyV)
  u.withRegs { u.regs with applVset := u.regs.cfgVset }

/-- `PROG.I` (R87). -/
def progI (s : State) : State :=
  let m := s.params.iMaxSp.val
  let r := noteDuty s.regs.cfgCset m s.params.iFsDuty s.regs
  let t := s.withRegs { r with dutyI := duty16 s.regs.cfgCset m s.params.iFsDuty }
  let u := t.emit (.drive .current t.regs.dutyI)
  u.withRegs { u.regs with applCset := u.regs.cfgCset }

/-! ### The enable/disable FSM -/

/-- `SP.ENABLE`: both duties first, then the output-enable signal (R89). -/
def spEnable (s : State) : State :=
  let t := (progI (progV s)).emit (.outEn true)
  t.withRegs { t.regs with outOn := true }

/-- `SP.DISABLE`: the output-enable signal first, then zero duties and a cleared record (R90). -/
def spDisable (s : State) : State :=
  let t := s.emit (.outEn false)
  let u := t.withRegs { t.regs with outOn := false }
  let v := (u.emit (.drive .voltage 0)).emit (.drive .current 0)
  v.withRegs { v.regs with dutyV := 0, dutyI := 0, applVset := 0, applCset := 0 }

/-- The voltage half of `SP.RECONCILE`: reprogram when the target changed (R91). -/
def reconcileV (s : State) : State := if s.regs.cfgVset ≠ s.regs.applVset then progV s else s

/-- The current half of `SP.RECONCILE` (R91). -/
def reconcileI (s : State) : State := if s.regs.cfgCset ≠ s.regs.applCset then progI s else s

/-- `SP.RECONCILE` (R91). -/
def spReconcile (s : State) : State := reconcileI (reconcileV s)

/-- `SP.HOLD` does nothing (R92). -/
def spHold (s : State) : State := s

/-- `SPC.STEP`: exactly one of the four, by `CFG_EN` and `OUT_ON` as they are at its start (R88). -/
def spcStep (s : State) : State :=
  if s.regs.cfgEn = true ∧ s.regs.outOn = false then spEnable s
  else if s.regs.cfgEn = false ∧ s.regs.outOn = true then spDisable s
  else if s.regs.outOn = true then spReconcile s
  else spHold s

/-! ### The micro-operations run on their own -/

/-- `DUTY`: the value `duty16(sp, M, D)` and the flag; refused with the divisor 0 (R84, U4; log 8, log 9). -/
def execDuty (sp m d : Word) (s : State) : Host.Outcome State Fault Refusal :=
  if m = 0#16 then .refused .zeroFullScale
  else .next ((s.start.withRegs (noteDuty sp m d s.regs)).withValue ((duty16 sp m d).zeroExtend 22))

/-- `PROG.V` (R86). -/
def execProgV (s : State) : Host.Outcome State Fault Refusal := .next (progV s.start)

/-- `PROG.I` (R87). -/
def execProgI (s : State) : Host.Outcome State Fault Refusal := .next (progI s.start)

/-- `SP.ENABLE` (R89). -/
def execSpEnable (s : State) : Host.Outcome State Fault Refusal := .next (spEnable s.start)

/-- `SP.DISABLE` (R90). -/
def execSpDisable (s : State) : Host.Outcome State Fault Refusal := .next (spDisable s.start)

/-- `SP.RECONCILE` (R91). -/
def execSpReconcile (s : State) : Host.Outcome State Fault Refusal := .next (spReconcile s.start)

/-- `SP.HOLD` (R92). -/
def execSpHold (s : State) : Host.Outcome State Fault Refusal := .next (spHold s.start)

end Sys2Proof.Machine
end

