-- ==== Sys2Proof/Machine/Tick.lean ====
section
/-! DEFINITION. The meanings of IDLE and TICK (spec/43_operations.md R97, R102). -/

namespace Sys2Proof.Machine

/-- `IDLE`: the state is unchanged and the response is `(0x0000, 0, [])` (R97). -/
def execIdle (s : State) : Host.Outcome State Fault Refusal := .next s.start

/-- `TICK`: SEQ, then SPC; the response carries what both emitted, in emission order (R102, R103). -/
def execTick (rdy cc aux : Bool) (raw : Sample) (s : State) : Host.Outcome State Fault Refusal :=
  .next (spcStep (seqStep rdy raw cc aux s.start))

end Sys2Proof.Machine
end

