-- ==== Sys2Proof/Machine/Wr.lean ====
section
/-! DEFINITION. The meanings of the WR operations (spec/43_operations.md R99 to R101; spec/60_exceptions.md R110, R111). A write
emits no event; what it changes reaches the collaborators at a later TICK (spec/20_memory.md R34, R39). -/

namespace Sys2Proof.Machine

/-- `WR CFG_OUTPUT, data` (R100: only bit 0 is kept). -/
def execWrCfgOutput (d : Word) (s : State) : Host.Outcome State Fault Refusal := .next (s.hostWrite .cfgOutput d)

/-- `WR CFG_VSET, data` (R99). -/
def execWrCfgVset (d : Word) (s : State) : Host.Outcome State Fault Refusal := .next (s.hostWrite .cfgVset d)

/-- `WR CFG_CSET, data` (R99). -/
def execWrCfgCset (d : Word) (s : State) : Host.Outcome State Fault Refusal := .next (s.hostWrite .cfgCset d)

/-- `WR CAL_VIN, data` (R99). -/
def execWrCalVin (d : Word) (s : State) : Host.Outcome State Fault Refusal := .next (s.hostWrite .calVin d)

/-- `WR CAL_VOUT_A, data` (R99). -/
def execWrCalVoutA (d : Word) (s : State) : Host.Outcome State Fault Refusal := .next (s.hostWrite .calVoutA d)

/-- `WR CAL_VOUT_B, data` (R99). -/
def execWrCalVoutB (d : Word) (s : State) : Host.Outcome State Fault Refusal := .next (s.hostWrite .calVoutB d)

/-- `WR CAL_COUT_A, data` (R99). -/
def execWrCalCoutA (d : Word) (s : State) : Host.Outcome State Fault Refusal := .next (s.hostWrite .calCoutA d)

/-- `WR CAL_COUT_B, data` (R99). -/
def execWrCalCoutB (d : Word) (s : State) : Host.Outcome State Fault Refusal := .next (s.hostWrite .calCoutB d)

/-- `WR MUL_X, data` (R99). -/
def execWrMulX (d : Word) (s : State) : Host.Outcome State Fault Refusal := .next (s.hostWrite .mulX d)

/-- `WR MUL_Y, data` (R99). -/
def execWrMulY (d : Word) (s : State) : Host.Outcome State Fault Refusal := .next (s.hostWrite .mulY d)

/-- `WR MUL_P, data` (R111: read-only to the host, code 2). -/
def execWrMulP (d : Word) (s : State) : Host.Outcome State Fault Refusal := .next (s.hostWrite .mulP d)

/-- `WR MUL_PH, data` (R111: read-only to the host, code 2). -/
def execWrMulPh (d : Word) (s : State) : Host.Outcome State Fault Refusal := .next (s.hostWrite .mulPh d)

/-- `WR RAW_COUT, data` (R111: read-only to the host, code 2). -/
def execWrRawCout (d : Word) (s : State) : Host.Outcome State Fault Refusal := .next (s.hostWrite .rawCout d)

/-- `WR RAW_VOUT, data` (R111: read-only to the host, code 2). -/
def execWrRawVout (d : Word) (s : State) : Host.Outcome State Fault Refusal := .next (s.hostWrite .rawVout d)

/-- `WR RAW_VIN, data` (R111: read-only to the host, code 2). -/
def execWrRawVin (d : Word) (s : State) : Host.Outcome State Fault Refusal := .next (s.hostWrite .rawVin d)

/-- `WR COUT, data` (R111: read-only to the host, code 2). -/
def execWrCout (d : Word) (s : State) : Host.Outcome State Fault Refusal := .next (s.hostWrite .cout d)

/-- `WR VOUT, data` (R111: read-only to the host, code 2). -/
def execWrVout (d : Word) (s : State) : Host.Outcome State Fault Refusal := .next (s.hostWrite .vout d)

/-- `WR VIN, data` (R111: read-only to the host, code 2). -/
def execWrVin (d : Word) (s : State) : Host.Outcome State Fault Refusal := .next (s.hostWrite .vin d)

/-- `WR ACC, data` (R111: read-only to the host, code 2). -/
def execWrAcc (d : Word) (s : State) : Host.Outcome State Fault Refusal := .next (s.hostWrite .acc d)

/-- `WR SEQ_STAT, data` (R111: read-only to the host, code 2). -/
def execWrSeqStat (d : Word) (s : State) : Host.Outcome State Fault Refusal := .next (s.hostWrite .seqStat d)

/-- `WR SPC_STAT, data` (R111: read-only to the host, code 2). -/
def execWrSpcStat (d : Word) (s : State) : Host.Outcome State Fault Refusal := .next (s.hostWrite .spcStat d)

/-- `WR DUTY_V, data` (R111: read-only to the host, code 2). -/
def execWrDutyV (d : Word) (s : State) : Host.Outcome State Fault Refusal := .next (s.hostWrite .dutyV d)

/-- `WR DUTY_I, data` (R111: read-only to the host, code 2). -/
def execWrDutyI (d : Word) (s : State) : Host.Outcome State Fault Refusal := .next (s.hostWrite .dutyI d)

/-- `WR APPL_VSET, data` (R111: read-only to the host, code 2). -/
def execWrApplVset (d : Word) (s : State) : Host.Outcome State Fault Refusal := .next (s.hostWrite .applVset d)

/-- `WR APPL_CSET, data` (R111: read-only to the host, code 2). -/
def execWrApplCset (d : Word) (s : State) : Host.Outcome State Fault Refusal := .next (s.hostWrite .applCset d)

/-- `WR STATUS, data` (R101: write one to clear). -/
def execWrStatus (d : Word) (s : State) : Host.Outcome State Fault Refusal := .next (s.hostWrite .status d)

/-- `WR` of an unmapped address: `ERR_UNMAPPED`, nothing written (R110). -/
def execWrUnmapped (_addr : Addr) (_d : Word) (s : State) : Host.Outcome State Fault Refusal := .next s.hostUnmapped

end Sys2Proof.Machine
end

