-- ==== Sys2Proof/Machine/Dispatch.lean ====
section
/-! DEFINITION. One arm per instruction, each a direct call of its meaning. -/

namespace Sys2Proof.Machine

def exec (i : Instr) (s : State) : Host.Outcome State Fault Refusal :=
  match i with
  | .idle => Sys2Proof.Machine.execIdle s
  | .rdCfgOutput => Sys2Proof.Machine.execRdCfgOutput s
  | .rdCfgVset => Sys2Proof.Machine.execRdCfgVset s
  | .rdCfgCset => Sys2Proof.Machine.execRdCfgCset s
  | .rdCalVin => Sys2Proof.Machine.execRdCalVin s
  | .rdCalVoutA => Sys2Proof.Machine.execRdCalVoutA s
  | .rdCalVoutB => Sys2Proof.Machine.execRdCalVoutB s
  | .rdCalCoutA => Sys2Proof.Machine.execRdCalCoutA s
  | .rdCalCoutB => Sys2Proof.Machine.execRdCalCoutB s
  | .rdMulX => Sys2Proof.Machine.execRdMulX s
  | .rdMulY => Sys2Proof.Machine.execRdMulY s
  | .rdMulP => Sys2Proof.Machine.execRdMulP s
  | .rdMulPh => Sys2Proof.Machine.execRdMulPh s
  | .rdRawCout => Sys2Proof.Machine.execRdRawCout s
  | .rdRawVout => Sys2Proof.Machine.execRdRawVout s
  | .rdRawVin => Sys2Proof.Machine.execRdRawVin s
  | .rdCout => Sys2Proof.Machine.execRdCout s
  | .rdVout => Sys2Proof.Machine.execRdVout s
  | .rdVin => Sys2Proof.Machine.execRdVin s
  | .rdAcc => Sys2Proof.Machine.execRdAcc s
  | .rdSeqStat => Sys2Proof.Machine.execRdSeqStat s
  | .rdSpcStat => Sys2Proof.Machine.execRdSpcStat s
  | .rdDutyV => Sys2Proof.Machine.execRdDutyV s
  | .rdDutyI => Sys2Proof.Machine.execRdDutyI s
  | .rdApplVset => Sys2Proof.Machine.execRdApplVset s
  | .rdApplCset => Sys2Proof.Machine.execRdApplCset s
  | .rdStatus => Sys2Proof.Machine.execRdStatus s
  | .rdUnmapped addr => Sys2Proof.Machine.execRdUnmapped addr s
  | .wrCfgOutput data => Sys2Proof.Machine.execWrCfgOutput data s
  | .wrCfgVset data => Sys2Proof.Machine.execWrCfgVset data s
  | .wrCfgCset data => Sys2Proof.Machine.execWrCfgCset data s
  | .wrCalVin data => Sys2Proof.Machine.execWrCalVin data s
  | .wrCalVoutA data => Sys2Proof.Machine.execWrCalVoutA data s
  | .wrCalVoutB data => Sys2Proof.Machine.execWrCalVoutB data s
  | .wrCalCoutA data => Sys2Proof.Machine.execWrCalCoutA data s
  | .wrCalCoutB data => Sys2Proof.Machine.execWrCalCoutB data s
  | .wrMulX data => Sys2Proof.Machine.execWrMulX data s
  | .wrMulY data => Sys2Proof.Machine.execWrMulY data s
  | .wrMulP data => Sys2Proof.Machine.execWrMulP data s
  | .wrMulPh data => Sys2Proof.Machine.execWrMulPh data s
  | .wrRawCout data => Sys2Proof.Machine.execWrRawCout data s
  | .wrRawVout data => Sys2Proof.Machine.execWrRawVout data s
  | .wrRawVin data => Sys2Proof.Machine.execWrRawVin data s
  | .wrCout data => Sys2Proof.Machine.execWrCout data s
  | .wrVout data => Sys2Proof.Machine.execWrVout data s
  | .wrVin data => Sys2Proof.Machine.execWrVin data s
  | .wrAcc data => Sys2Proof.Machine.execWrAcc data s
  | .wrSeqStat data => Sys2Proof.Machine.execWrSeqStat data s
  | .wrSpcStat data => Sys2Proof.Machine.execWrSpcStat data s
  | .wrDutyV data => Sys2Proof.Machine.execWrDutyV data s
  | .wrDutyI data => Sys2Proof.Machine.execWrDutyI data s
  | .wrApplVset data => Sys2Proof.Machine.execWrApplVset data s
  | .wrApplCset data => Sys2Proof.Machine.execWrApplCset data s
  | .wrStatus data => Sys2Proof.Machine.execWrStatus data s
  | .wrUnmapped addr data => Sys2Proof.Machine.execWrUnmapped addr data s
  | .tick rdy cc aux raw => Sys2Proof.Machine.execTick rdy cc aux raw s
  | .adcKick => Sys2Proof.Machine.execAdcKick s
  | .adcDone raw => Sys2Proof.Machine.execAdcDone raw s
  | .adcWait => Sys2Proof.Machine.execAdcWait s
  | .calI raw => Sys2Proof.Machine.execCalI raw s
  | .calVo raw => Sys2Proof.Machine.execCalVo raw s
  | .calVi raw => Sys2Proof.Machine.execCalVi raw s
  | .disp raw => Sys2Proof.Machine.execDisp raw s
  | .fxmul x y => Sys2Proof.Machine.execFxmul x y s
  | .sense cc => Sys2Proof.Machine.execSense cc s
  | .diag aux => Sys2Proof.Machine.execDiag aux s
  | .duty sp m d => Sys2Proof.Machine.execDuty sp m d s
  | .progV => Sys2Proof.Machine.execProgV s
  | .progI => Sys2Proof.Machine.execProgI s
  | .spEnable => Sys2Proof.Machine.execSpEnable s
  | .spDisable => Sys2Proof.Machine.execSpDisable s
  | .spReconcile => Sys2Proof.Machine.execSpReconcile s
  | .spHold => Sys2Proof.Machine.execSpHold s

end Sys2Proof.Machine
end

