-- ==== Sys2Proof/WellFormed.lean ====
section
/-! DEFINITION. Which terms of `Instr` have legal operands: an `UNMAPPED` operation names one of the six unmapped addresses
(spec/20_memory.md R32), and `DUTY` has a divisor that is not zero (spec/42_setpoint.md R84). Every other operand may be
anything. -/

namespace Sys2Proof

/-- The six addresses that R32 leaves unmapped. -/
def unmappedAddrs : List Addr := [0x03#5, 0x09#5, 0x0A#5, 0x0B#5, 0x13#5, 0x1F#5]

/-- The operands of the instruction are legal. -/
def Instr.wellFormed : Instr → Bool
  | .rdUnmapped a => unmappedAddrs.contains a
  | .wrUnmapped a _ => unmappedAddrs.contains a
  | .duty _ m _ => m != 0#16
  | _ => true

/-- The instruction is a micro-operation: it has no operation word of its own (spec/30_encoding.md R54). -/
def Instr.isMicro : Instr → Bool
  | .adcKick | .adcDone _ | .adcWait | .calI _ | .calVo _ | .calVi _ | .disp _ | .fxmul _ _ | .sense _ | .diag _
  | .duty _ _ _ | .progV | .progI | .spEnable | .spDisable | .spReconcile | .spHold => true
  | _ => false

end Sys2Proof
end

