-- ==== Sys2Proof/Decode.lean ====
section
/-! DEFINITION. Decoding and encoding of operation words (spec/30_encoding.md R42 to R48, R54; the rows of
spec/opcode_table.json but for the `T-micro` rows, which a decoder skips). An operation word is one 24-bit number: there is
no byte order (spec/20_memory.md R31, R36; log 17). -/

namespace Sys2Proof

/-- Why a word is no operation: a bit that its format fixes at 0 is 1 (R48), named by the kind of the word. -/
inductive Malformed where
  /-- `KIND = 00` and one of `OPW[21:0]` is 1. -/
  | idle
  /-- `KIND = 01` and `OPW[21]` or one of `OPW[15:0]` is 1. -/
  | rd
  /-- `KIND = 10` and `OPW[21]` is 1. -/
  | wr
  /-- `KIND = 11` and one of `OPW[21:13]` is 1. -/
  | tick
deriving DecidableEq, Repr

/-- What a word decodes to: an operation, or a rejection by name (R42: exactly one of the two). -/
inductive Decoded where
  | instr (i : Instr)
  | malformed (why : Malformed)
deriving DecidableEq, Repr

/-! ### The fields of a word (R42, R45 to R47) -/

/-- `KIND`, bits 23:22. -/
def OpWord.kind (w : OpWord) : BitVec 2 := w.extractLsb' 22 2
/-- Bit 21, fixed at 0 in every format. -/
def OpWord.bit21 (w : OpWord) : Bool := w.getLsbD 21
/-- `ADDR`, bits 20:16. -/
def OpWord.addr (w : OpWord) : Addr := w.extractLsb' 16 5
/-- `DATA`, bits 15:0. -/
def OpWord.data (w : OpWord) : Word := w.extractLsb' 0 16
/-- Bits 21:0, fixed at 0 in format I. -/
def OpWord.idleZeros (w : OpWord) : BitVec 22 := w.extractLsb' 0 22
/-- Bits 21:13, fixed at 0 in format T. -/
def OpWord.tickZeros (w : OpWord) : BitVec 9 := w.extractLsb' 13 9
/-- `RDY`, bit 12. -/
def OpWord.rdy (w : OpWord) : Bool := w.getLsbD 12
/-- `CC`, bit 11. -/
def OpWord.cc (w : OpWord) : Bool := w.getLsbD 11
/-- `AUX`, bit 10. -/
def OpWord.aux (w : OpWord) : Bool := w.getLsbD 10
/-- `RAW`, bits 9:0. -/
def OpWord.raw (w : OpWord) : Sample := w.extractLsb' 0 10

/-! ### Decoding -/

/-- The `RD` operation of an address (the `RD` rows of the table, R32). -/
def decodeRd (a : Addr) : Instr :=
  match a.toNat with
  | 0x00 => .rdCfgOutput
  | 0x01 => .rdCfgVset
  | 0x02 => .rdCfgCset
  | 0x04 => .rdCalVin
  | 0x05 => .rdCalVoutA
  | 0x06 => .rdCalVoutB
  | 0x07 => .rdCalCoutA
  | 0x08 => .rdCalCoutB
  | 0x0C => .rdMulX
  | 0x0D => .rdMulY
  | 0x0E => .rdMulP
  | 0x0F => .rdMulPh
  | 0x10 => .rdRawCout
  | 0x11 => .rdRawVout
  | 0x12 => .rdRawVin
  | 0x14 => .rdCout
  | 0x15 => .rdVout
  | 0x16 => .rdVin
  | 0x17 => .rdAcc
  | 0x18 => .rdSeqStat
  | 0x19 => .rdSpcStat
  | 0x1A => .rdDutyV
  | 0x1B => .rdDutyI
  | 0x1C => .rdApplVset
  | 0x1D => .rdApplCset
  | 0x1E => .rdStatus
  | _ => .rdUnmapped a

/-- The `WR` operation of an address (the `WR` rows of the table, R32). -/
def decodeWr (a : Addr) (d : Word) : Instr :=
  match a.toNat with
  | 0x00 => .wrCfgOutput d
  | 0x01 => .wrCfgVset d
  | 0x02 => .wrCfgCset d
  | 0x04 => .wrCalVin d
  | 0x05 => .wrCalVoutA d
  | 0x06 => .wrCalVoutB d
  | 0x07 => .wrCalCoutA d
  | 0x08 => .wrCalCoutB d
  | 0x0C => .wrMulX d
  | 0x0D => .wrMulY d
  | 0x0E => .wrMulP d
  | 0x0F => .wrMulPh d
  | 0x10 => .wrRawCout d
  | 0x11 => .wrRawVout d
  | 0x12 => .wrRawVin d
  | 0x14 => .wrCout d
  | 0x15 => .wrVout d
  | 0x16 => .wrVin d
  | 0x17 => .wrAcc d
  | 0x18 => .wrSeqStat d
  | 0x19 => .wrSpcStat d
  | 0x1A => .wrDutyV d
  | 0x1B => .wrDutyI d
  | 0x1C => .wrApplVset d
  | 0x1D => .wrApplCset d
  | 0x1E => .wrStatus d
  | _ => .wrUnmapped a d

/-- Decoding an operation word: the kind, then the bits its format fixes at 0, then the operands (R54). -/
def decode (w : OpWord) : Decoded :=
  if w.kind = 0b00#2 then
    if w.idleZeros = 0 then .instr .idle else .malformed .idle
  else if w.kind = 0b01#2 then
    if w.bit21 = false ∧ w.data = 0 then .instr (decodeRd w.addr) else .malformed .rd
  else if w.kind = 0b10#2 then
    if w.bit21 = false then .instr (decodeWr w.addr w.data) else .malformed .wr
  else
    if w.tickZeros = 0 then .instr (.tick w.rdy w.cc w.aux w.raw) else .malformed .tick

/-! ### Encoding -/

/-- Format R: `{01, 0, ADDR, 0[15:0]}` (R45). -/
def rdWord (a : Addr) : OpWord := 0b01#2 ++ 0b0#1 ++ a ++ 0x0000#16

/-- Format W: `{10, 0, ADDR, DATA}` (R46). -/
def wrWord (a : Addr) (d : Word) : OpWord := 0b10#2 ++ 0b0#1 ++ a ++ d

/-- Format T: `{11, 0[21:13], RDY, CC, AUX, RAW}` (R47). -/
def tickWord (rdy cc aux : Bool) (raw : Sample) : OpWord :=
  0b11#2 ++ 0#9 ++ BitVec.ofBool rdy ++ BitVec.ofBool cc ++ BitVec.ofBool aux ++ raw

/-- The operation word of an instruction, written from the format table; `none` for a micro-operation, which has no encoding
of its own (R54). -/
def encode : Instr → Option OpWord
  | .idle => some 0x000000#24
  | .rdCfgOutput => some (rdWord 0x00#5)
  | .rdCfgVset => some (rdWord 0x01#5)
  | .rdCfgCset => some (rdWord 0x02#5)
  | .rdCalVin => some (rdWord 0x04#5)
  | .rdCalVoutA => some (rdWord 0x05#5)
  | .rdCalVoutB => some (rdWord 0x06#5)
  | .rdCalCoutA => some (rdWord 0x07#5)
  | .rdCalCoutB => some (rdWord 0x08#5)
  | .rdMulX => some (rdWord 0x0C#5)
  | .rdMulY => some (rdWord 0x0D#5)
  | .rdMulP => some (rdWord 0x0E#5)
  | .rdMulPh => some (rdWord 0x0F#5)
  | .rdRawCout => some (rdWord 0x10#5)
  | .rdRawVout => some (rdWord 0x11#5)
  | .rdRawVin => some (rdWord 0x12#5)
  | .rdCout => some (rdWord 0x14#5)
  | .rdVout => some (rdWord 0x15#5)
  | .rdVin => some (rdWord 0x16#5)
  | .rdAcc => some (rdWord 0x17#5)
  | .rdSeqStat => some (rdWord 0x18#5)
  | .rdSpcStat => some (rdWord 0x19#5)
  | .rdDutyV => some (rdWord 0x1A#5)
  | .rdDutyI => some (rdWord 0x1B#5)
  | .rdApplVset => some (rdWord 0x1C#5)
  | .rdApplCset => some (rdWord 0x1D#5)
  | .rdStatus => some (rdWord 0x1E#5)
  | .rdUnmapped a => some (rdWord a)
  | .wrCfgOutput d => some (wrWord 0x00#5 d)
  | .wrCfgVset d => some (wrWord 0x01#5 d)
  | .wrCfgCset d => some (wrWord 0x02#5 d)
  | .wrCalVin d => some (wrWord 0x04#5 d)
  | .wrCalVoutA d => some (wrWord 0x05#5 d)
  | .wrCalVoutB d => some (wrWord 0x06#5 d)
  | .wrCalCoutA d => some (wrWord 0x07#5 d)
  | .wrCalCoutB d => some (wrWord 0x08#5 d)
  | .wrMulX d => some (wrWord 0x0C#5 d)
  | .wrMulY d => some (wrWord 0x0D#5 d)
  | .wrMulP d => some (wrWord 0x0E#5 d)
  | .wrMulPh d => some (wrWord 0x0F#5 d)
  | .wrRawCout d => some (wrWord 0x10#5 d)
  | .wrRawVout d => some (wrWord 0x11#5 d)
  | .wrRawVin d => some (wrWord 0x12#5 d)
  | .wrCout d => some (wrWord 0x14#5 d)
  | .wrVout d => some (wrWord 0x15#5 d)
  | .wrVin d => some (wrWord 0x16#5 d)
  | .wrAcc d => some (wrWord 0x17#5 d)
  | .wrSeqStat d => some (wrWord 0x18#5 d)
  | .wrSpcStat d => some (wrWord 0x19#5 d)
  | .wrDutyV d => some (wrWord 0x1A#5 d)
  | .wrDutyI d => some (wrWord 0x1B#5 d)
  | .wrApplVset d => some (wrWord 0x1C#5 d)
  | .wrApplCset d => some (wrWord 0x1D#5 d)
  | .wrStatus d => some (wrWord 0x1E#5 d)
  | .wrUnmapped a d => some (wrWord a d)
  | .tick rdy cc aux raw => some (tickWord rdy cc aux raw)
  | .adcKick | .adcDone _ | .adcWait | .calI _ | .calVo _ | .calVi _ | .disp _ | .fxmul _ _ | .sense _ | .diag _
  | .duty _ _ _ | .progV | .progI | .spEnable | .spDisable | .spReconcile | .spHold => none

/-! ### The host's view of a table row -/

/-- The operation word that the `nbits` low bits of `w` spell, every higher bit 0. -/
def tableWord (nbits w : Nat) : Nat := w % 2 ^ nbits

/-- The instruction the decoder reads from the bits of `w`; `none` where it refuses, or where the bits do not fit the 24 bits
that every operation word has (R42, R55). -/
def decodeTableWord (nbits w : Nat) : Option Instr :=
  if tableWord nbits w < 2 ^ 24 then
    match decode (BitVec.ofNat 24 (tableWord nbits w)) with
    | .instr i => some i
    | .malformed _ => none
  else none

end Sys2Proof
end

