-- ==== Sys2Proof/Machine/Fetch.lean ====
section
/-! DEFINITION. How the block comes by its next operation: it is presented from outside, one word per step
(spec/00_scope.md R8, spec/10_state.md R25). -/

namespace Sys2Proof.Machine

/-- Present one more input before everything that is pending (log 1). -/
def State.presentInput (s : State) (i : Input) : State := { s with pending := i :: s.pending }

/-- Present one more operation word before everything that is pending (log 1, log 14). -/
def State.present (s : State) (w : OpWord) : State := s.presentInput (.word w)

/-- What the inputs of this step ask for. -/
inductive Presented where
  /-- An operation (R54). -/
  | operation (i : Instr)
  /-- A word that is no operation (spec/30_encoding.md R48). -/
  | malformed (why : Malformed)
  /-- Reset (spec/70_reset_and_hazards.md R123). -/
  | reset
deriving DecidableEq, Repr

/-- The inputs of this step: the oldest pending one, or IDLE where nothing is presented (R43: "neither strobe asserted is
IDLE"; log 2). -/
def State.presented (s : State) : Presented :=
  match s.pending with
  | [] => .operation .idle
  | .reset :: _ => .reset
  | .word w :: _ =>
    match decode w with
    | .instr i => .operation i
    | .malformed why => .malformed why

/-- The state once this step's input is taken from the stream. -/
def State.taken (s : State) : State := { s with pending := s.pending.tail }

/-- A malformed word changes no register and emits no event; its code is 3 (spec/60_exceptions.md R112). -/
def State.rejectWord (s : State) : State := s.start.raiseBusError .malformed

end Sys2Proof.Machine
end

