-- ==== Sys2Proof/Machine/Step.lean ====
section
/-! DEFINITION. One step: the input presented to the block, then its whole effect (spec/43_operations.md, opening paragraph;
spec/00_scope.md R8). -/

namespace Sys2Proof.Machine

/-- One operation word, or reset, to completion. -/
def step (s : State) : Host.Outcome State Fault Refusal :=
  match s.presented with
  | .operation i => exec i s.taken
  | .malformed _ => .next s.taken.rejectWord
  | .reset => .next s.taken.applyReset

/-- `s` with the operation word that the `nbits` low bits of `w` spell presented at its next step (log 14). -/
def State.withFetchWord (s : State) (nbits w : Nat) : State := s.present (BitVec.ofNat 24 (tableWord nbits w))

end Sys2Proof.Machine
end

