-- ==== Sys2Proof/Machine/Events.lean ====
section
/-! DEFINITION. The numeric forms of the output side: codes, event words and the response as the host sees it
(spec/30_encoding.md R49, R51 to R53). -/

namespace Sys2Proof.Machine

/-- The drive channel code: 0 for voltage, 1 for current (R53). -/
def DriveChannel.code : DriveChannel → BitVec 1
  | .voltage => 0#1
  | .current => 1#1

/-- A decimal digit as four bits of packed BCD (R51). -/
def bcd (d : Fin 10) : BitVec 4 := BitVec.ofNat 4 d.val

/-- The 20-bit event word `{EKIND, bit 16, bits 15:0}` (R51). -/
def Event.word : Event → EventWord
  | .adcStart ch => 0b001#3 ++ 0#1 ++ 0#14 ++ ch.code
  | .adcRead => 0b010#3 ++ 0#1 ++ 0x0000#16
  | .drive dch duty => 0b011#3 ++ dch.code ++ duty
  | .outEn level => 0b100#3 ++ 0#1 ++ 0#15 ++ BitVec.ofBool level
  | .display d3 d2 d1 d0 => 0b101#3 ++ 0#1 ++ bcd d3 ++ bcd d2 ++ bcd d1 ++ bcd d0
  | .diagAux level => 0b110#3 ++ 0#1 ++ 0#15 ++ BitVec.ofBool level

/-- `ecode[1:0]` (R49, spec/60_exceptions.md R109). -/
def ECode.code : ECode → BitVec 2
  | .ok => 0b00#2
  | .unmapped => 0b01#2
  | .readOnly => 0b10#2
  | .malformed => 0b11#2

end Sys2Proof.Machine
end

