-- ==== Sys2Proof/Machine/Ports.lean ====
section
/-! DEFINITION. The input ports of the block and the operation word they stand for (spec/30_encoding.md R43). -/

namespace Sys2Proof.Machine

/-- The input ports as sampled at one step (R43). -/
structure Ports where
  req      : Bool
  we       : Bool
  addr     : Addr
  wdata    : Word
  tick     : Bool
  adcRdy   : Bool
  ccSense  : Bool
  auxSense : Bool
  adcData  : Sample
deriving DecidableEq, Repr

/-- The operation word of the sampled ports: a host request, a tick, or IDLE with neither strobe. Both strobes together have
no word: the encoding cannot express them (R43, spec/93_implementation_defined.md U6; log 18). R43 does not say what becomes
of a port that the selected format does not carry (`wdata` of a read, `addr` and `wdata` of a tick, all of them at IDLE).
DESIGN CHOICE: its level is ignored, and the word has 0 where its format fixes 0 (log 23); unsafe. -/
def Ports.word (p : Ports) : Option OpWord :=
  match p.req, p.tick with
  | true, false => some (if p.we = true then wrWord p.addr p.wdata else rdWord p.addr)
  | false, true => some (tickWord p.adcRdy p.ccSense p.auxSense p.adcData)
  | false, false => some 0x000000#24
  | true, true => none

end Sys2Proof.Machine
end

