-- ==== Sys2Proof/Machine/Pseudo.lean ====
section
/-! DEFINITION. The pseudo-operations of spec/30_encoding.md R57: each is the sequence of operations it abbreviates and
nothing more. -/

namespace Sys2Proof.Machine.Pseudo

/-- `MUL x, y`. -/
def mul (x y : Word) : List Instr := [.wrMulX x, .wrMulY y, .rdMulP, .rdMulPh]

/-- `LOADCAL vin, vout_a, vout_b, cout_a, cout_b`. -/
def loadCal (vin voutA voutB coutA coutB : Word) : List Instr :=
  [.wrCalVin vin, .wrCalVoutA voutA, .wrCalVoutB voutB, .wrCalCoutA coutA, .wrCalCoutB coutB]

/-- `SETV v`. -/
def setV (v : Word) : List Instr := [.wrCfgVset v]

/-- `SETI i`. -/
def setI (i : Word) : List Instr := [.wrCfgCset i]

/-- `OUTPUT 0` or `OUTPUT 1`. -/
def output (on : Bool) : List Instr := [.wrCfgOutput (if on = true then 0x0001#16 else 0x0000#16)]

/-- `CLRFLAGS`. -/
def clrFlags : List Instr := [.wrStatus 0x0007#16]

/-- `TICKS n`: `TICK` with all inputs 0, `n` times. -/
def ticks (n : Nat) : List Instr := List.replicate n (.tick false false false 0)

end Sys2Proof.Machine.Pseudo
end

