-- ==== Sys2Proof/Safety.lean ====
section
/-! DEFINITION. The terms that claims about the machine use: what an operation answers, what a run is, the arithmetic of the
spec in closed form over the natural numbers, the tables of the register space, and the invariant. -/

namespace Sys2Proof.Safety

open Sys2Proof.Machine

/-! ### What an instruction did -/

/-- Everything that an operation may do: the registers are `r` afterwards, the response is `a`, and the model's own fields
for the instance and for the input still to come are untouched. -/
def Replies (s t : State) (r : Regs) (a : Response) : Prop :=
  t.regs = r ∧ t.resp = a ∧ t.params = s.params ∧ t.pending = s.pending

/-- Everything that a micro-operation may do when it is run on its own (log 7): the registers are `r` afterwards, it emitted
`events`, and the model's own fields for the instance and for the input still to come are untouched. -/
def Acts (s t : State) (r : Regs) (events : List Event) : Prop :=
  t.regs = r ∧ t.resp.events = events ∧ t.params = s.params ∧ t.pending = s.pending

/-! ### Runs (spec/43_operations.md R106) -/

/-- Presenting `is` to the machine one after another from `s`: the final state and the responses, in order. -/
def runFrom (s : State) : List Input → State × List Response
  | [] => (s, [])
  | i :: is =>
    match step (s.presentInput i) with
    | .next t => ((runFrom t is).1, t.resp :: (runFrom t is).2)
    | .fault _ => (s, [])
    | .refused _ => (s, [])

/-- The operation words `ws` as inputs. -/
def words (ws : List OpWord) : List Input := ws.map Input.word

/-- The final state of presenting the words `ws` from `s`. -/
def finalState (s : State) (ws : List OpWord) : State := (runFrom s (words ws)).1

/-- The responses to the words `ws` from `s` (R106 (a)). -/
def responses (s : State) (ws : List OpWord) : List Response := (runFrom s (words ws)).2

/-- The event trace of the words `ws` from `s` (R106 (b)). -/
def trace (s : State) (ws : List OpWord) : List Event := (responses s ws).flatMap Response.events

/-- The channels whose samples were read, in order: for every step that emitted `ADC_READ`, the channel that was in flight
before it (spec/41_sequencer.md R69). -/
def readChannels (s : State) : List OpWord → List Channel
  | [] => []
  | w :: ws =>
    match step (s.present w) with
    | .next t => (if Event.adcRead ∈ t.resp.events then [s.regs.ch] else []) ++ readChannels t ws
    | .fault _ => []
    | .refused _ => []

/-- An event to the ADC collaborator. -/
def isAdc : Event → Bool
  | .adcStart _ | .adcRead => true
  | _ => false

/-- An event to the display collaborator. -/
def isDisplay : Event → Bool
  | .display _ _ _ _ => true
  | _ => false

/-- An event of SPC: to the drive or to the output enable. -/
def isSpc : Event → Bool
  | .drive _ _ | .outEn _ => true
  | _ => false

/-- The level of an `OUT_EN` event. -/
def outEnLevel : Event → Option Bool
  | .outEn level => some level
  | _ => none

/-- The channel of the k-th conversion of a run from reset (spec/41_sequencer.md R71). -/
def channelOf (k : Nat) : Channel :=
  match k % 3 with
  | 0 => .current
  | 1 => .voltageOut
  | _ => .voltageIn

/-- The ADC events of the first `n` completions: a start, then `n` times a read and the next start, round robin (R71). -/
def adcCycle : Nat → List Event
  | 0 => [.adcStart (channelOf 0)]
  | n + 1 => adcCycle n ++ [.adcRead, .adcStart (channelOf (n + 1))]

/-- `BUSY` and `CH` are what the events emitted since reset make them (R71): none to the ADC and the first channel, or those of
`n` completions and the channel of the last start. -/
def AdcSoFar (emitted : List Event) (r : Regs) : Prop :=
  (r.busy = false ∧ r.ch = .current ∧ emitted.filter isAdc = []) ∨
  (r.busy = true ∧ ∃ n, r.ch = channelOf n ∧ emitted.filter isAdc = adcCycle n)

/-- `OUT_ON` is what the events emitted since reset make it (R94): the `OUT_EN` levels alternate from 1 on, and `OUT_ON` is the
last of them, off before the first. -/
def OutEnSoFar (emitted : List Event) (r : Regs) : Prop :=
  ∃ n, emitted.filterMap outEnLevel = (List.range n).map (fun k => decide (k % 2 = 0)) ∧ r.outOn = decide (n % 2 = 1)

/-! ### Arithmetic in closed form -/

/-- The closed form of the rounded product (spec/40_fxmul.md R60). -/
def rounded (x y : Nat) : Nat := (x * y + 512) / 1024

/-- The first product of a calibration (spec/41_sequencer.md R72). -/
def firstProduct (raw : Sample) (g : Word) : Nat := rounded raw.toNat g.toNat

/-- The second product of a calibration, by `REF_VOLT = 3379`, before its slice (R72). -/
def secondProduct (raw : Sample) (g : Word) : Nat := rounded (firstProduct raw g) 3379

/-- What `ACC.SCALE` leaves in the accumulator: the low 16 bits (R72). -/
def scaled (raw : Sample) (g : Word) : Nat := secondProduct raw g % 65536

/-- The calibrated value with an offset, modulo 2^16 (R72). -/
def offsetBy (raw : Sample) (g b : Word) : Word := BitVec.ofNat 16 (scaled raw g + 65536 - b.toNat)

/-- `duty_full(sp, M, D)` as one floor division (spec/42_setpoint.md R84). -/
def dutyQuotient (sp m d : Word) : Nat := sp.toNat * d.toNat / m.toNat

/-- The voltage duty of a set-point with the parameters `p`, before its slice (R86). -/
def voltageDuty (p : Config.Params) (sp : Word) : Nat := dutyQuotient sp p.vMaxSp.val p.vFsDuty

/-- The current duty of a set-point with the parameters `p`, before its slice (R87). -/
def currentDuty (p : Config.Params) (sp : Word) : Nat := dutyQuotient sp p.iMaxSp.val p.iFsDuty

/-! ### The register space, by number (spec/20_memory.md R32; spec/43_operations.md R98, R99) -/

/-- The value of a one-bit field. -/
def bit (b : Bool) : Nat := if b = true then 1 else 0

/-- The channel code (spec/30_encoding.md R52). -/
def channelCode : Channel → Nat
  | .current => 0
  | .voltageOut => 1
  | .voltageIn => 2

/-- What RD returns at each address, the table of R98; `none` where the address is unmapped. -/
def readTable (a : Nat) (r : Regs) : Option Nat :=
  match a with
  | 0x00 => some (bit r.cfgEn)
  | 0x01 => some r.cfgVset.toNat
  | 0x02 => some r.cfgCset.toNat
  | 0x04 => some r.calVin.toNat
  | 0x05 => some r.calVoutA.toNat
  | 0x06 => some r.calVoutB.toNat
  | 0x07 => some r.calCoutA.toNat
  | 0x08 => some r.calCoutB.toNat
  | 0x0C => some r.mulX.toNat
  | 0x0D => some r.mulY.toNat
  | 0x0E => some (rounded r.mulX.toNat r.mulY.toNat % 65536)
  | 0x0F => some (rounded r.mulX.toNat r.mulY.toNat / 65536)
  | 0x10 => some r.rawCout.toNat
  | 0x11 => some r.rawVout.toNat
  | 0x12 => some r.rawVin.toNat
  | 0x14 => some r.cout.toNat
  | 0x15 => some r.vout.toNat
  | 0x16 => some r.vin.toNat
  | 0x17 => some r.acc.toNat
  | 0x18 => some (channelCode r.ch + 4 * bit r.busy + 8 * bit r.ccActive + 16 * bit r.auxLast)
  | 0x19 => some (bit r.outOn)
  | 0x1A => some r.dutyV.toNat
  | 0x1B => some r.dutyI.toNat
  | 0x1C => some r.applVset.toNat
  | 0x1D => some r.applCset.toNat
  | 0x1E => some (bit r.calOvf + 2 * bit r.calUnf + 4 * bit r.dutyOvf)
  | _ => none

/-- The read-only addresses of R99. -/
def readOnlyAddrs : List Nat :=
  [0x0E, 0x0F, 0x10, 0x11, 0x12, 0x14, 0x15, 0x16, 0x17, 0x18, 0x19, 0x1A, 0x1B, 0x1C, 0x1D]

/-- What WR of `d` leaves in the registers at each writable address (R99 to R101); `none` elsewhere. -/
def writeTable (a : Nat) (d : Word) (r : Regs) : Option Regs :=
  match a with
  | 0x00 => some { r with cfgEn := decide (d.toNat % 2 = 1) }
  | 0x01 => some { r with cfgVset := d }
  | 0x02 => some { r with cfgCset := d }
  | 0x04 => some { r with calVin := d }
  | 0x05 => some { r with calVoutA := d }
  | 0x06 => some { r with calVoutB := d }
  | 0x07 => some { r with calCoutA := d }
  | 0x08 => some { r with calCoutB := d }
  | 0x0C => some { r with mulX := d }
  | 0x0D => some { r with mulY := d }
  | 0x1E => some { r with
      calOvf := if d.toNat % 2 = 1 then false else r.calOvf
      calUnf := if d.toNat / 2 % 2 = 1 then false else r.calUnf
      dutyOvf := if d.toNat / 4 % 2 = 1 then false else r.dutyOvf }
  | _ => none

/-! ### Malformed words (spec/30_encoding.md R48) -/

/-- A bit that the word's format fixes at 0 is 1 (R48). -/
def FixedBitSet (w : OpWord) : Prop :=
  (w.extractLsb' 22 2 = 0b00#2 ∧ ∃ k, k < 22 ∧ w.getLsbD k = true) ∨
  (w.extractLsb' 22 2 = 0b01#2 ∧ (w.getLsbD 21 = true ∨ ∃ k, k < 16 ∧ w.getLsbD k = true)) ∨
  (w.extractLsb' 22 2 = 0b10#2 ∧ w.getLsbD 21 = true) ∨
  (w.extractLsb' 22 2 = 0b11#2 ∧ ∃ k, 13 ≤ k ∧ k < 22 ∧ w.getLsbD k = true)

/-! ### Ownership (spec/10_state.md R26) -/

/-- The registers that only the host writes are equal. -/
def SameHostRegs (r q : Regs) : Prop :=
  q.cfgEn = r.cfgEn ∧ q.cfgVset = r.cfgVset ∧ q.cfgCset = r.cfgCset ∧ q.calVin = r.calVin ∧ q.calVoutA = r.calVoutA ∧
  q.calVoutB = r.calVoutB ∧ q.calCoutA = r.calCoutA ∧ q.calCoutB = r.calCoutB ∧ q.mulX = r.mulX ∧ q.mulY = r.mulY

/-- The registers that only SEQ writes are equal. -/
def SameSeqRegs (r q : Regs) : Prop :=
  q.rawCout = r.rawCout ∧ q.rawVout = r.rawVout ∧ q.rawVin = r.rawVin ∧ q.cout = r.cout ∧ q.vout = r.vout ∧
  q.vin = r.vin ∧ q.acc = r.acc ∧ q.ch = r.ch ∧ q.busy = r.busy ∧ q.ccActive = r.ccActive ∧ q.auxLast = r.auxLast

/-- The registers that only SPC writes are equal. -/
def SameSpcRegs (r q : Regs) : Prop :=
  q.outOn = r.outOn ∧ q.dutyV = r.dutyV ∧ q.dutyI = r.dutyI ∧ q.applVset = r.applVset ∧ q.applCset = r.applCset

/-- No flag of `STATUS` that is set in `r` is clear in `q`. -/
def FlagsKept (r q : Regs) : Prop :=
  (r.calOvf = true → q.calOvf = true) ∧ (r.calUnf = true → q.calUnf = true) ∧ (r.dutyOvf = true → q.dutyOvf = true)

/-- Everything SPC reads or writes is equal (spec/42_setpoint.md R83), and `DUTY_OVF`, which only SPC sets. -/
def SameForSpc (s t : State) : Prop :=
  t.params = s.params ∧ t.regs.cfgEn = s.regs.cfgEn ∧ t.regs.cfgVset = s.regs.cfgVset ∧
  t.regs.cfgCset = s.regs.cfgCset ∧ SameSpcRegs s.regs t.regs ∧ t.regs.dutyOvf = s.regs.dutyOvf

/-- The two words are the same, or each is a well-formed TICK, with inputs of its own. -/
def SameButTickInputs (v w : OpWord) : Prop :=
  v = w ∨ ((∃ rdy cc aux raw, v = tickWord rdy cc aux raw) ∧ ∃ rdy cc aux raw, w = tickWord rdy cc aux raw)

/-! ### The invariant (spec/10_state.md R18, R20, R27) -/

/-- While the output is off the last applied record is clear (R27 item 3). -/
def OffRecordClear (r : Regs) : Prop :=
  r.outOn = false → r.dutyV = 0 ∧ r.dutyI = 0 ∧ r.applVset = 0 ∧ r.applCset = 0

/-- While the output is on each duty is that of the set-point it was computed from (R27 item 5). -/
def OnDutiesMatch (s : State) : Prop :=
  s.regs.outOn = true →
    s.regs.dutyV.toNat = voltageDuty s.params s.regs.applVset % 65536 ∧
    s.regs.dutyI.toNat = currentDuty s.params s.regs.applCset % 65536

/-- Before the first tick SEQ and SPC are as reset left them (R20, spec/93_implementation_defined.md U15). -/
def IdleUntouched (r : Regs) : Prop :=
  r.busy = false →
    SameSeqRegs Regs.reset r ∧ SameSpcRegs Regs.reset r ∧ r.calOvf = false ∧ r.calUnf = false ∧ r.dutyOvf = false

/-- The accumulator equals the calibrated value that the last completion stored (R18); the channel just completed is the one
before `CH` (spec/70_reset_and_hazards.md R134). -/
def AccIsLastCalibrated (r : Regs) : Prop :=
  r.acc = (match r.ch with | .current => r.vin | .voltageOut => r.cout | .voltageIn => r.vout)

/-- The invariant of the machine. -/
def MachineInv (s : State) : Prop :=
  OffRecordClear s.regs ∧ OnDutiesMatch s ∧ IdleUntouched s.regs ∧ AccIsLastCalibrated s.regs

end Sys2Proof.Safety
end

