-- ==== Sys2Proof/Certificates/Slice0/Obligations.lean ====
section
/-! DEFINITION. The statements for the provers. Each docstring names the rule of spec/ that the statement formalises, or says
which choice of the model it is about. `Replies` and `Acts` (Sys2Proof/Safety.lean) say everything that an instruction may do:
the registers afterwards, the response or its events, and that nothing else moved. There is no memory to frame. -/

open Sys2Proof Sys2Proof.Machine Sys2Proof.Safety

/-! ### The step, reset, decoding and encoding -/

/-- A step runs the operation that the oldest pending word decodes to, on the state that no longer holds that word; nothing is
added around it (spec/43_operations.md, opening paragraph; the stream is the model's, log 1). -/
def Obligations.StepRunsTheDecodedOperation : Prop :=
  ∀ (s : State) (w : OpWord) (rest : List Input) (i : Instr), s.pending = .word w :: rest → decode w = .instr i →
    step s = exec i { s with pending := rest }

/-- With nothing presented a step is IDLE. The model's reading of "neither strobe asserted is IDLE" (log 2). -/
def Obligations.NothingPresentedIsIdle : Prop :=
  ∀ s : State, s.pending = [] → ∃ t, step s = .next t ∧ Replies s t s.regs ⟨0, .ok, []⟩

/-- A reset input puts every register at its reset value, emits nothing, keeps the parameters and the input still to come. That
reset stands in the input stream is the model's choice (log 3). -/
def Obligations.ResetInputLoadsResetValues : Prop :=
  ∀ (s : State) (rest : List Input), s.pending = .reset :: rest →
    ∃ t, step s = .next t ∧ t.regs = Regs.reset ∧ t.resp.events = [] ∧ t.params = s.params ∧ t.pending = rest

/-- R28: after reset every register and field is 0, and reset emits no event; whatever the parameters. -/
def Obligations.ResetValuesAreZero : Prop :=
  ∀ p : Config.Params, ∃ r : Regs, (State.resetWith p).regs = r ∧
    (r.cfgEn = false ∧ r.cfgVset = 0 ∧ r.cfgCset = 0) ∧
    (r.calVin = 0 ∧ r.calVoutA = 0 ∧ r.calVoutB = 0 ∧ r.calCoutA = 0 ∧ r.calCoutB = 0) ∧
    (r.mulX = 0 ∧ r.mulY = 0) ∧
    (r.rawCout = 0 ∧ r.rawVout = 0 ∧ r.rawVin = 0 ∧ r.cout = 0 ∧ r.vout = 0 ∧ r.vin = 0 ∧ r.acc = 0) ∧
    (r.ch = .current ∧ r.busy = false ∧ r.ccActive = false ∧ r.auxLast = false) ∧
    (r.outOn = false ∧ r.dutyV = 0 ∧ r.dutyI = 0 ∧ r.applVset = 0 ∧ r.applCset = 0) ∧
    (r.calOvf = false ∧ r.calUnf = false ∧ r.dutyOvf = false) ∧
    (State.resetWith p).resp.events = []

/-- Decode and encode agree: every well-formed operation is what its own word decodes to, and every instruction that is no
micro-operation has a word (R42, R44 to R47, R54). -/
def Obligations.DecodeReadsEncodedOperation : Prop :=
  (∀ (i : Instr) (w : OpWord), i.wellFormed = true → encode i = some w → decode w = .instr i) ∧
  (∀ i : Instr, i.isMicro = false → ∃ w, encode i = some w)

/-- Each word has one meaning: what a word decodes to is well formed, is no micro-operation, and encodes to that word. -/
def Obligations.DecodedOperationEncodesBack : Prop :=
  ∀ (w : OpWord) (i : Instr), decode w = .instr i → i.wellFormed = true ∧ i.isMicro = false ∧ encode i = some w

/-- A word is malformed exactly when a bit that its format fixes at 0 is 1 (the first sentence of R48). -/
def Obligations.MalformedExactlyWhenFixedBitSet : Prop :=
  ∀ w : OpWord, (∃ why, decode w = .malformed why) ↔ FixedBitSet w

/-- R112: a word of any kind with a bit set that its format fixes at 0 is answered with code 3; it starts no conversion, samples
no pin, programs no duty. -/
def Obligations.MalformedWordIsAnsweredWithCodeThree : Prop :=
  ∀ (s : State) (w : OpWord), FixedBitSet w →
    ∃ t, step (s.present w) = .next t ∧ Replies s t s.regs ⟨0, .malformed, []⟩

/-- A few words of spec/95_test_vectors.md section 2.1 decode to what the table says. -/
def Obligations.SampleWordsDecode : Prop :=
  decode 0x000000#24 = .instr .idle ∧ decode 0x5E0000#24 = .instr .rdStatus ∧
  decode 0x430000#24 = .instr (.rdUnmapped 0x03#5) ∧ decode 0x811400#24 = .instr (.wrCfgVset 0x1400#16) ∧
  decode 0x951234#24 = .instr (.wrVout 0x1234#16) ∧ decode 0x9F0001#24 = .instr (.wrUnmapped 0x1F#5 0x0001#16) ∧
  decode 0xC01864#24 = .instr (.tick true true false 100#10) ∧
  decode 0xC016E9#24 = .instr (.tick true false true 745#10) ∧ decode 0x630000#24 = .malformed .rd ∧
  decode 0xC02000#24 = .malformed .tick

/-- R98: `RD` of any address answers the table of the rule, or code 1 where the address is unmapped, and changes no
register. The word is that of R45 as a number. -/
def Obligations.ReadWordAnswersTable : Prop :=
  ∀ (s : State) (a : Addr),
    ∃ t, step (s.present (BitVec.ofNat 24 (0x400000 + a.toNat * 65536))) = .next t ∧
      match readTable a.toNat s.regs with
      | some v => v < 65536 ∧ Replies s t s.regs ⟨BitVec.ofNat 16 v, .ok, []⟩
      | none => Replies s t s.regs ⟨0, .unmapped, []⟩

/-- R99: `WR` of any address is refused with code 1 where it is unmapped and with code 2 where it is read-only, and else writes
what R99 to R101 say. The word is that of R46 as a number. -/
def Obligations.WriteWordActsByAccess : Prop :=
  ∀ (s : State) (a : Addr) (d : Word),
    ∃ t, step (s.present (BitVec.ofNat 24 (0x800000 + a.toNat * 65536 + d.toNat))) = .next t ∧
      if a ∈ unmappedAddrs then Replies s t s.regs ⟨0, .unmapped, []⟩
      else if a.toNat ∈ readOnlyAddrs then Replies s t s.regs ⟨0, .readOnly, []⟩
      else ∃ r, writeTable a.toNat d s.regs = some r ∧ Replies s t r ⟨0, .ok, []⟩

/-- R47: the number of a TICK word, what it decodes to, and that `RAW` is used only when the tick completes a conversion. -/
def Obligations.TickWordCarriesItsInputs : Prop :=
  ∀ (rdy cc aux : Bool) (raw : Sample),
    decode (BitVec.ofNat 24 (0xC00000 + bit rdy * 4096 + bit cc * 2048 + bit aux * 1024 + raw.toNat)) =
      .instr (.tick rdy cc aux raw) ∧
    ∀ (s : State) (other : Sample), (s.regs.busy = false ∨ rdy = false) →
      exec (.tick rdy cc aux raw) s = exec (.tick rdy cc aux other) s

/-- R51: each event word as a number; the kinds 0 and 7 are never produced. -/
def Obligations.EventWordsAreTheNumbersOfTheTable : Prop :=
  (∀ c : Channel, (Event.adcStart c).word.toNat = 0x20000 + channelCode c) ∧
  Event.adcRead.word.toNat = 0x40000 ∧
  (∀ duty : Word, (Event.drive .voltage duty).word.toNat = 0x60000 + duty.toNat) ∧
  (∀ duty : Word, (Event.drive .current duty).word.toNat = 0x70000 + duty.toNat) ∧
  (∀ level : Bool, (Event.outEn level).word.toNat = 0x80000 + bit level) ∧
  (∀ d3 d2 d1 d0 : Fin 10, (Event.display d3 d2 d1 d0).word.toNat =
    0xA0000 + d3.val * 4096 + d2.val * 256 + d1.val * 16 + d0.val) ∧
  (∀ level : Bool, (Event.diagAux level).word.toNat = 0xC0000 + bit level) ∧
  (∀ e : Event, e.word.toNat / 131072 ≠ 0 ∧ e.word.toNat / 131072 ≠ 7)

/-- The sampled ports stand for one operation each; both strobes together have no word (the mapping of R43, U6). That the ports
which the operation's format does not carry are ignored is the model's choice (log 23). -/
def Obligations.PortsSpellTheOperation : Prop :=
  ∀ p : Ports,
    (p.req = true → p.tick = false → p.we = false → ∃ w, p.word = some w ∧ decode w = .instr (decodeRd p.addr)) ∧
    (p.req = true → p.tick = false → p.we = true → ∃ w, p.word = some w ∧ decode w = .instr (decodeWr p.addr p.wdata)) ∧
    (p.req = false → p.tick = true →
      ∃ w, p.word = some w ∧ decode w = .instr (.tick p.adcRdy p.ccSense p.auxSense p.adcData)) ∧
    (p.req = false → p.tick = false → ∃ w, p.word = some w ∧ decode w = .instr .idle) ∧
    (p.req = true → p.tick = true → p.word = none)

/-! ### RD -/

/-- `RD` of the host-writable registers completes in every state and returns the register (rows of the table of R98). -/
def Obligations.ReadsOfHostRegistersComplete : Prop :=
  ∀ s : State,
  (∃ t, exec .rdCfgOutput s = .next t ∧ Replies s t s.regs ⟨BitVec.ofNat 16 (bit s.regs.cfgEn), .ok, []⟩) ∧
  (∃ t, exec .rdCfgVset s = .next t ∧ Replies s t s.regs ⟨s.regs.cfgVset, .ok, []⟩) ∧
  (∃ t, exec .rdCfgCset s = .next t ∧ Replies s t s.regs ⟨s.regs.cfgCset, .ok, []⟩) ∧
  (∃ t, exec .rdCalVin s = .next t ∧ Replies s t s.regs ⟨s.regs.calVin, .ok, []⟩) ∧
  (∃ t, exec .rdCalVoutA s = .next t ∧ Replies s t s.regs ⟨s.regs.calVoutA, .ok, []⟩) ∧
  (∃ t, exec .rdCalVoutB s = .next t ∧ Replies s t s.regs ⟨s.regs.calVoutB, .ok, []⟩) ∧
  (∃ t, exec .rdCalCoutA s = .next t ∧ Replies s t s.regs ⟨s.regs.calCoutA, .ok, []⟩) ∧
  (∃ t, exec .rdCalCoutB s = .next t ∧ Replies s t s.regs ⟨s.regs.calCoutB, .ok, []⟩) ∧
  (∃ t, exec .rdMulX s = .next t ∧ Replies s t s.regs ⟨s.regs.mulX, .ok, []⟩) ∧
  (∃ t, exec .rdMulY s = .next t ∧ Replies s t s.regs ⟨s.regs.mulY, .ok, []⟩)

/-- `RD` of the views, of the narrow registers and of `STATUS` completes in every state, zero-extended, every unimplemented bit
0 (rows of the table of R98; R15). -/
def Obligations.ReadsOfViewsComplete : Prop :=
  ∀ s : State,
  (∃ t, exec .rdMulP s = .next t ∧
    Replies s t s.regs ⟨BitVec.ofNat 16 (rounded s.regs.mulX.toNat s.regs.mulY.toNat), .ok, []⟩) ∧
  (∃ t, exec .rdMulPh s = .next t ∧
    Replies s t s.regs ⟨BitVec.ofNat 16 (rounded s.regs.mulX.toNat s.regs.mulY.toNat / 65536), .ok, []⟩) ∧
  (∃ t, exec .rdRawCout s = .next t ∧ Replies s t s.regs ⟨BitVec.ofNat 16 s.regs.rawCout.toNat, .ok, []⟩) ∧
  (∃ t, exec .rdRawVout s = .next t ∧ Replies s t s.regs ⟨BitVec.ofNat 16 s.regs.rawVout.toNat, .ok, []⟩) ∧
  (∃ t, exec .rdRawVin s = .next t ∧ Replies s t s.regs ⟨BitVec.ofNat 16 s.regs.rawVin.toNat, .ok, []⟩) ∧
  (∃ t, exec .rdSeqStat s = .next t ∧ Replies s t s.regs ⟨BitVec.ofNat 16
    (channelCode s.regs.ch + 4 * bit s.regs.busy + 8 * bit s.regs.ccActive + 16 * bit s.regs.auxLast), .ok, []⟩) ∧
  (∃ t, exec .rdSpcStat s = .next t ∧ Replies s t s.regs ⟨BitVec.ofNat 16 (bit s.regs.outOn), .ok, []⟩) ∧
  (∃ t, exec .rdStatus s = .next t ∧ Replies s t s.regs ⟨BitVec.ofNat 16
    (bit s.regs.calOvf + 2 * bit s.regs.calUnf + 4 * bit s.regs.dutyOvf), .ok, []⟩)

/-- `RD` of the calibrated values, of the accumulator and of the registers of SPC completes in every state and returns the
register (rows of the table of R98). -/
def Obligations.ReadsOfUnitRegistersComplete : Prop :=
  ∀ s : State,
  (∃ t, exec .rdCout s = .next t ∧ Replies s t s.regs ⟨s.regs.cout, .ok, []⟩) ∧
  (∃ t, exec .rdVout s = .next t ∧ Replies s t s.regs ⟨s.regs.vout, .ok, []⟩) ∧
  (∃ t, exec .rdVin s = .next t ∧ Replies s t s.regs ⟨s.regs.vin, .ok, []⟩) ∧
  (∃ t, exec .rdAcc s = .next t ∧ Replies s t s.regs ⟨s.regs.acc, .ok, []⟩) ∧
  (∃ t, exec .rdDutyV s = .next t ∧ Replies s t s.regs ⟨s.regs.dutyV, .ok, []⟩) ∧
  (∃ t, exec .rdDutyI s = .next t ∧ Replies s t s.regs ⟨s.regs.dutyI, .ok, []⟩) ∧
  (∃ t, exec .rdApplVset s = .next t ∧ Replies s t s.regs ⟨s.regs.applVset, .ok, []⟩) ∧
  (∃ t, exec .rdApplCset s = .next t ∧ Replies s t s.regs ⟨s.regs.applCset, .ok, []⟩)

/-- R110: the RD and WR words of each of the six unmapped addresses are operations that are answered with code 1 and touch no
register. -/
def Obligations.UnmappedAccessAnswersCodeOne : Prop :=
  ∀ (s : State) (a : Addr) (d : Word), a ∈ [0x03#5, 0x09#5, 0x0A#5, 0x0B#5, 0x13#5, 0x1F#5] →
    decode (rdWord a) = .instr (.rdUnmapped a) ∧ decode (wrWord a d) = .instr (.wrUnmapped a d) ∧
    (∃ t, exec (.rdUnmapped a) s = .next t ∧ Replies s t s.regs ⟨0, .unmapped, []⟩) ∧
    (∃ t, exec (.wrUnmapped a d) s = .next t ∧ Replies s t s.regs ⟨0, .unmapped, []⟩)

/-! ### WR -/

/-- The nine plain value registers take any 16-bit data, without a range check, and nothing else changes (the plain writes
of R99). -/
def Obligations.ValueRegisterWritesStoreData : Prop :=
  ∀ (s : State) (d : Word),
  (∃ t, exec (.wrCfgVset d) s = .next t ∧ Replies s t { s.regs with cfgVset := d } ⟨0, .ok, []⟩) ∧
  (∃ t, exec (.wrCfgCset d) s = .next t ∧ Replies s t { s.regs with cfgCset := d } ⟨0, .ok, []⟩) ∧
  (∃ t, exec (.wrCalVin d) s = .next t ∧ Replies s t { s.regs with calVin := d } ⟨0, .ok, []⟩) ∧
  (∃ t, exec (.wrCalVoutA d) s = .next t ∧ Replies s t { s.regs with calVoutA := d } ⟨0, .ok, []⟩) ∧
  (∃ t, exec (.wrCalVoutB d) s = .next t ∧ Replies s t { s.regs with calVoutB := d } ⟨0, .ok, []⟩) ∧
  (∃ t, exec (.wrCalCoutA d) s = .next t ∧ Replies s t { s.regs with calCoutA := d } ⟨0, .ok, []⟩) ∧
  (∃ t, exec (.wrCalCoutB d) s = .next t ∧ Replies s t { s.regs with calCoutB := d } ⟨0, .ok, []⟩) ∧
  (∃ t, exec (.wrMulX d) s = .next t ∧ Replies s t { s.regs with mulX := d } ⟨0, .ok, []⟩) ∧
  (∃ t, exec (.wrMulY d) s = .next t ∧ Replies s t { s.regs with mulY := d } ⟨0, .ok, []⟩)

/-- R100: `WR CFG_OUTPUT` stores `DATA[0]` into `CFG_EN` and that is its only effect: the output state and the duties stay, and
a read that follows returns `DATA[0]`. -/
def Obligations.OutputRequestWriteKeepsBitZero : Prop :=
  ∀ (s : State) (d : Word), ∃ t, exec (.wrCfgOutput d) s = .next t ∧
    Replies s t { s.regs with cfgEn := decide (d.toNat % 2 = 1) } ⟨0, .ok, []⟩ ∧
    ∃ u, exec .rdCfgOutput t = .next u ∧ u.resp = ⟨BitVec.ofNat 16 (d.toNat % 2), .ok, []⟩

/-- R101: `WR STATUS` clears each flag whose data bit is 1, keeps the others, and can set none. -/
def Obligations.StatusWriteClearsSelectedFlags : Prop :=
  ∀ (s : State) (d : Word), ∃ t, exec (.wrStatus d) s = .next t ∧
    Replies s t { s.regs with
      calOvf := if d.toNat % 2 = 1 then false else s.regs.calOvf
      calUnf := if d.toNat / 2 % 2 = 1 then false else s.regs.calUnf
      dutyOvf := if d.toNat / 4 % 2 = 1 then false else s.regs.dutyOvf } ⟨0, .ok, []⟩

/-- R111: a write of each of the fifteen read-only registers is answered with code 2 and the register keeps its value. -/
def Obligations.ReadOnlyWritesAnswerCodeTwo : Prop :=
  ∀ (s : State) (d : Word), ∀ i ∈ [Instr.wrMulP d, .wrMulPh d, .wrRawCout d, .wrRawVout d, .wrRawVin d, .wrCout d,
      .wrVout d, .wrVin d, .wrAcc d, .wrSeqStat d, .wrSpcStat d, .wrDutyV d, .wrDutyI d, .wrApplVset d, .wrApplCset d],
    ∃ t, exec i s = .next t ∧ Replies s t s.regs ⟨0, .readOnly, []⟩

/-! ### IDLE and TICK -/

/-- R97: IDLE leaves the registers and answers `(0x0000, 0, [])`, and a run with its IDLE words removed has the same final
registers and the same event trace. -/
def Obligations.IdleIsInvisible : Prop :=
  (∀ s : State, ∃ t, exec .idle s = .next t ∧ Replies s t s.regs ⟨0, .ok, []⟩) ∧
  (∀ (s : State) (ws : List OpWord),
    (finalState s (ws.filter (· ≠ 0x000000#24))).regs = (finalState s ws).regs ∧
    trace s (ws.filter (· ≠ 0x000000#24)) = trace s ws)

/-- A tick completes in every state with every input, and is its selected micro-operations one after another: the ADC one by
`BUSY` and `RDY` as they are at the start (R67), the two halves of SENSE, then the SPC one by `CFG_EN` and `OUT_ON` (R88); its
events are theirs in order (R102). -/
def Obligations.TickRunsItsMicroOperationsInOrder : Prop :=
  ∀ (rdy cc aux : Bool) (raw : Sample) (s : State), ∃ s1 s2 s3 s4 t,
    exec (if s.regs.busy = false then .adcKick else if rdy = true then .adcDone raw else .adcWait) s = .next s1 ∧
    exec (.sense cc) s1 = .next s2 ∧
    exec (.diag aux) s2 = .next s3 ∧
    exec (if s.regs.cfgEn = true ∧ s.regs.outOn = false then .spEnable
      else if s.regs.cfgEn = false ∧ s.regs.outOn = true then .spDisable
      else if s.regs.outOn = true then .spReconcile else .spHold) s3 = .next s4 ∧
    exec (.tick rdy cc aux raw) s = .next t ∧
    Replies s t s4.regs ⟨0, .ok, s1.resp.events ++ s2.resp.events ++ s3.resp.events ++ s4.resp.events⟩

/-! ### FXM -/

/-- R60: the closed form of the rounded product, the bound of half a unit for the 22-bit result and every operand pair, and for
the 16-bit result exactly when there is no overflow. -/
def Obligations.ProductRoundsHalfUp : Prop :=
  ∀ x y : Word,
    (fxmulFull x y).toNat = (x.toNat * y.toNat + 512) / 1024 ∧
    (-512 < 1024 * ((fxmulFull x y).toNat : Int) - (x.toNat * y.toNat : Int) ∧
      1024 * ((fxmulFull x y).toNat : Int) - (x.toNat * y.toNat : Int) ≤ 512) ∧
    ((-512 < 1024 * ((mul16 x y).toNat : Int) - (x.toNat * y.toNat : Int) ∧
      1024 * ((mul16 x y).toNat : Int) - (x.toNat * y.toNat : Int) ≤ 512) ↔ mulOvf x y = false)

/-- FXMUL on its own touches no register, emits nothing, and answers the rounded product of R58. Where the answer stands is the
model's choice (log 8). -/
def Obligations.FxmulAnswersProduct : Prop :=
  ∀ (s : State) (x y : Word), ∃ t, exec (.fxmul x y) s = .next t ∧ Acts s t s.regs [] ∧
    t.value.toNat = (x.toNat * y.toNat + 512) / 1024

/-- The laws of R61, items 1 to 8. -/
def Obligations.MultiplicationLaws : Prop :=
  (∀ x y, fxmulFull x y = fxmulFull y x) ∧
  (∀ x, fxmulFull x 0 = 0 ∧ fxmulFull 0 x = 0) ∧
  (∀ x, (fxmulFull x 0x0400#16).toNat = x.toNat) ∧
  (∀ (x : Word) (k : Nat), k ≤ 5 → (fxmulFull x (0x0400#16 <<< k)).toNat = x.toNat * 2 ^ k) ∧
  (∀ x : Word, (fxmulFull x 0x0200#16).toNat = (x.toNat + 1) / 2) ∧
  (∀ x x' y : Word, x.toNat ≤ x'.toNat → (fxmulFull x y).toNat ≤ (fxmulFull x' y).toNat) ∧
  (∀ x y : Word, fxmulFull x y = 0 ↔ x.toNat * y.toNat < 512) ∧
  mul16 (mul16 1 0x0200#16) 0x0200#16 ≠ mul16 1 (mul16 0x0200#16 0x0200#16)

/-- R62: the largest product and where it is reached, when a product overflows, and which operands never overflow. -/
def Obligations.ProductRanges : Prop :=
  (∀ x y : Word, (fxmulFull x y).toNat ≤ 0x3FFF80) ∧
  (∀ x y : Word, (fxmulFull x y).toNat = 0x3FFF80 ↔ x = 0xFFFF#16 ∧ y = 0xFFFF#16) ∧
  (∀ x y : Word, mulOvf x y = true ↔ 67108352 ≤ x.toNat * y.toNat) ∧
  (∀ x y : Word, x.toNat < 1024 → (fxmulFull x y).toNat ≤ 0xFFBF ∧ mulOvf x y = false) ∧
  (∀ x y : Word, x.toNat ≤ 0x1FFF → y.toNat ≤ 0x1FFF → mulOvf x y = false) ∧
  (fxmulFull 0x1FFF#16 0x1FFF#16).toNat = 0xFFF0 ∧ (fxmulFull 0x2000#16 0x2000#16).toNat = 0x10000 ∧
  (∀ x : Word, mulOvf x x = false ↔ x.toNat ≤ 0x1FFF)

/-- The pseudo-operation `MUL x, y` (R57) run from any state: its two reads return the whole rounded product, and nothing but
the two operand registers has changed (R64). -/
def Obligations.MulPseudoOperationReadsWholeProduct : Prop :=
  ∀ (s : State) (x y : Word) (ws : List OpWord), (Pseudo.mul x y).mapM encode = some ws →
    ∃ lo hi : Word,
      responses s ws = [⟨0, .ok, []⟩, ⟨0, .ok, []⟩, ⟨lo, .ok, []⟩, ⟨hi, .ok, []⟩] ∧
      hi.toNat * 65536 + lo.toNat = (x.toNat * y.toNat + 512) / 1024 ∧
      (finalState s ws).regs = { s.regs with mulX := x, mulY := y }

/-! ### SEQ -/

/-- R73: `CAL.I` stores the raw sample and the value calibrated with gain and offset, through the accumulator. -/
def Obligations.CurrentCalibrationStoresSample : Prop :=
  ∀ (s : State) (raw : Sample), ∃ t, exec (.calI raw) s = .next t ∧
    Acts s t { s.regs with
      rawCout := raw
      acc := offsetBy raw s.regs.calCoutA s.regs.calCoutB
      cout := offsetBy raw s.regs.calCoutA s.regs.calCoutB
      calOvf := s.regs.calOvf || decide (65536 ≤ secondProduct raw s.regs.calCoutA)
      calUnf := s.regs.calUnf || decide (scaled raw s.regs.calCoutA < s.regs.calCoutB.toNat) } []

/-- R74: `CAL.VO` stores the raw sample and the value calibrated with gain and offset, through the accumulator. -/
def Obligations.OutputVoltageCalibrationStoresSample : Prop :=
  ∀ (s : State) (raw : Sample), ∃ t, exec (.calVo raw) s = .next t ∧
    Acts s t { s.regs with
      rawVout := raw
      acc := offsetBy raw s.regs.calVoutA s.regs.calVoutB
      vout := offsetBy raw s.regs.calVoutA s.regs.calVoutB
      calOvf := s.regs.calOvf || decide (65536 ≤ secondProduct raw s.regs.calVoutA)
      calUnf := s.regs.calUnf || decide (scaled raw s.regs.calVoutA < s.regs.calVoutB.toNat) } []

/-- R75: `CAL.VI` stores the raw sample and the scaled value, with no offset and so never `CAL_UNF`, and sends the digits of
the raw sample to the display. -/
def Obligations.InputVoltageCalibrationStoresAndDisplays : Prop :=
  ∀ (s : State) (raw : Sample), ∃ t d3 d2 d1 d0, exec (.calVi raw) s = .next t ∧
    Acts s t { s.regs with
      rawVin := raw
      acc := BitVec.ofNat 16 (secondProduct raw s.regs.calVin)
      vin := BitVec.ofNat 16 (secondProduct raw s.regs.calVin)
      calOvf := s.regs.calOvf || decide (65536 ≤ secondProduct raw s.regs.calVin) } [.display d3 d2 d1 d0] ∧
    d3.val * 1000 + d2.val * 100 + d1.val * 10 + d0.val = raw.toNat

/-- R77: `DISP` writes nothing and sends the four decimal digits of the raw sample, thousands first, leading zeros as 0. -/
def Obligations.DisplayReceivesDecimalDigits : Prop :=
  ∀ (s : State) (raw : Sample), ∃ t d3 d2 d1 d0, exec (.disp raw) s = .next t ∧
    Acts s t s.regs [.display d3 d2 d1 d0] ∧
    d3.val = raw.toNat / 1000 ∧ d2.val = raw.toNat / 100 % 10 ∧ d1.val = raw.toNat / 10 % 10 ∧ d0.val = raw.toNat % 10 ∧
    d3.val ≤ 1

/-- `ADC.KICK` starts the channel in `CH` and sets `BUSY` (R68); `ADC.WAIT` does nothing (R70). -/
def Obligations.KickStartsAndWaitDoesNothing : Prop :=
  ∀ s : State,
    (∃ t, exec .adcKick s = .next t ∧ Acts s t { s.regs with busy := true } [.adcStart s.regs.ch]) ∧
    (∃ t, exec .adcWait s = .next t ∧ Acts s t s.regs [])

/-- R69: `ADC.DONE`, which a tick selects when `BUSY = 1` and `RDY = 1`, reads, calibrates the channel in flight, advances `CH`
cyclically (R76) and starts the new channel, with its events in that order; `BUSY` is not written. -/
def Obligations.DoneCalibratesAdvancesAndRestarts : Prop :=
  ∀ (s : State) (raw : Sample),
    (s.regs.busy = true → adcStep true raw s = adcDone raw s) ∧
    (s.regs.ch = .current → ∃ t u, exec (.calI raw) s = .next u ∧ exec (.adcDone raw) s = .next t ∧
      Acts s t { u.regs with ch := .voltageOut } [.adcRead, .adcStart .voltageOut]) ∧
    (s.regs.ch = .voltageOut → ∃ t u, exec (.calVo raw) s = .next u ∧ exec (.adcDone raw) s = .next t ∧
      Acts s t { u.regs with ch := .voltageIn } [.adcRead, .adcStart .voltageIn]) ∧
    (s.regs.ch = .voltageIn → ∃ t u d3 d2 d1 d0, exec (.calVi raw) s = .next u ∧
      u.resp.events = [.display d3 d2 d1 d0] ∧ exec (.adcDone raw) s = .next t ∧
      Acts s t { u.regs with ch := .current } [.adcRead, .display d3 d2 d1 d0, .adcStart .current])

/-- Every tick copies `CC`, without inversion (R79), and reports a change of `AUX` in either direction, once (R80; where its
event stands in a tick is in `TickEventsComeInThreeGroups`), whichever ADC micro-operation ran (R67). R67 writes both halves as
`SENSE(CC, AUX)`: that SENSE run alone is the first half only, and DIAG the second, is the model's reading of the table's two
rows (log 11), and the first two clauses rest on it. -/
def Obligations.SenseInputsAreSampled : Prop :=
  ∀ (s : State) (cc aux rdy : Bool) (raw : Sample),
    (∃ t, exec (.sense cc) s = .next t ∧ Acts s t { s.regs with ccActive := cc } []) ∧
    (∃ t, exec (.diag aux) s = .next t ∧
      Acts s t { s.regs with auxLast := aux } (if aux = s.regs.auxLast then [] else [.diagAux aux])) ∧
    (∃ t, exec (.tick rdy cc aux raw) s = .next t ∧ t.regs.ccActive = cc ∧ t.regs.auxLast = aux ∧
      (.diagAux aux ∈ t.resp.events ↔ aux ≠ s.regs.auxLast) ∧ .diagAux (!aux) ∉ t.resp.events)

/-- The ranges of each of the three calibrations (R81): the first product never overflows and the second is at most 216042;
`CAL_OVF` is newly set exactly when the gain-scaled sample is 19861 or more; `CAL_UNF` exactly when the scaled value is below
the offset, so never by `CAL.VI`, which has none. -/
def Obligations.CalibrationFlagThresholds : Prop :=
  (∀ (raw : Sample) (g : Word), firstProduct raw g ≤ 0xFFBF ∧ secondProduct raw g ≤ 216042) ∧
  (∃ (raw : Sample) (g : Word), secondProduct raw g = 216042) ∧
  ∀ (s : State) (raw : Sample), s.regs.calOvf = false → s.regs.calUnf = false →
    (∃ t, exec (.calI raw) s = .next t ∧
      (t.regs.calOvf = true ↔ 19861 ≤ firstProduct raw s.regs.calCoutA) ∧
      (t.regs.calUnf = true ↔ scaled raw s.regs.calCoutA < s.regs.calCoutB.toNat)) ∧
    (∃ t, exec (.calVo raw) s = .next t ∧
      (t.regs.calOvf = true ↔ 19861 ≤ firstProduct raw s.regs.calVoutA) ∧
      (t.regs.calUnf = true ↔ scaled raw s.regs.calVoutA < s.regs.calVoutB.toNat)) ∧
    (∃ t, exec (.calVi raw) s = .next t ∧
      (t.regs.calOvf = true ↔ 19861 ≤ firstProduct raw s.regs.calVin) ∧ t.regs.calUnf = false)

/-- The transition table of the sequencer (the table of R82), for every state and input of a tick: the next `(BUSY, CH)` and the
ADC and display events, in order. -/
def Obligations.SequencerTransitionTable : Prop :=
  ∀ (s : State) (rdy cc aux : Bool) (raw : Sample), ∃ t, exec (.tick rdy cc aux raw) s = .next t ∧ t.regs.busy = true ∧
    (s.regs.busy = false → t.regs.ch = s.regs.ch ∧
      t.resp.events.filter (fun e => isAdc e || isDisplay e) = [.adcStart s.regs.ch]) ∧
    (s.regs.busy = true → rdy = false → t.regs.ch = s.regs.ch ∧
      t.resp.events.filter (fun e => isAdc e || isDisplay e) = []) ∧
    (s.regs.busy = true → rdy = true → s.regs.ch = .current → t.regs.ch = .voltageOut ∧
      t.resp.events.filter (fun e => isAdc e || isDisplay e) = [.adcRead, .adcStart .voltageOut]) ∧
    (s.regs.busy = true → rdy = true → s.regs.ch = .voltageOut → t.regs.ch = .voltageIn ∧
      t.resp.events.filter (fun e => isAdc e || isDisplay e) = [.adcRead, .adcStart .voltageIn]) ∧
    (s.regs.busy = true → rdy = true → s.regs.ch = .voltageIn → t.regs.ch = .current ∧
      ∃ d3 d2 d1 d0, t.resp.events.filter (fun e => isAdc e || isDisplay e) =
        [.adcRead, .display d3 d2 d1 d0, .adcStart .current])

/-- What the measured registers hold between completions (R78): a tick that does not complete a channel leaves that channel's
raw and calibrated registers, and one that completes none leaves the accumulator. -/
def Obligations.MeasuredValuesHoldBetweenCompletions : Prop :=
  ∀ (s t : State) (rdy cc aux : Bool) (raw : Sample), exec (.tick rdy cc aux raw) s = .next t →
    (¬(s.regs.busy = true ∧ rdy = true ∧ s.regs.ch = .current) →
      t.regs.rawCout = s.regs.rawCout ∧ t.regs.cout = s.regs.cout) ∧
    (¬(s.regs.busy = true ∧ rdy = true ∧ s.regs.ch = .voltageOut) →
      t.regs.rawVout = s.regs.rawVout ∧ t.regs.vout = s.regs.vout) ∧
    (¬(s.regs.busy = true ∧ rdy = true ∧ s.regs.ch = .voltageIn) →
      t.regs.rawVin = s.regs.rawVin ∧ t.regs.vin = s.regs.vin) ∧
    (¬(s.regs.busy = true ∧ rdy = true) → t.regs.acc = s.regs.acc)

/-! ### SPC -/

/-- `DUTY` on its own: with a divisor that is not 0 it answers the low 16 bits of the truncated quotient and sets `DUTY_OVF`
where bits are lost (R84); with the divisor 0 it is refused by name (U4). Where the answer stands, and the refusal, are the
model's choices (log 8, log 9). -/
def Obligations.DutyAnswersTruncatedQuotient : Prop :=
  ∀ (s : State) (sp m d : Word),
    (m ≠ 0 → ∃ t, exec (.duty sp m d) s = .next t ∧
      Acts s t { s.regs with dutyOvf := s.regs.dutyOvf || decide (65536 ≤ sp.toNat * d.toNat / m.toNat) } [] ∧
      t.value.toNat = sp.toNat * d.toNat / m.toNat % 65536) ∧
    (m = 0 → exec (.duty sp m d) s = .refused .zeroFullScale)

/-- R85: the duty is monotone in the set-point and in the full-scale duty, never rounds up, fits 32 bits, can overflow 16 bits
only from `65536 · M` on, and what `PSET0` makes of it. -/
def Obligations.DutyBounds : Prop :=
  (∀ sp m d : Word, m ≠ 0 →
    (dutyFull sp m d).toNat * m.toNat ≤ sp.toNat * d.toNat ∧
    sp.toNat * d.toNat < ((dutyFull sp m d).toNat + 1) * m.toNat ∧
    (dutyFull sp m d).toNat ≤ 0xFFFE0001 ∧
    (dutyOverflows (dutyFull sp m d) = true ↔ 65536 * m.toNat ≤ sp.toNat * d.toNat)) ∧
  (∀ sp sp' m d d' : Word, m ≠ 0 → sp.toNat ≤ sp'.toNat → d.toNat ≤ d'.toNat →
    (dutyFull sp m d).toNat ≤ (dutyFull sp' m d').toNat) ∧
  (dutyFull 0xFFFF#16 1#16 0xFFFF#16).toNat = 0xFFFE0001 ∧
  duty16 0x1400#16 0x8C00#16 0x2000#16 = 0x0492#16 ∧ duty16 0x1401#16 0x8C00#16 0x2000#16 = 0x0492#16 ∧
  (∀ sp : Word, (dutyFull sp 0x8C00#16 0x2000#16).toNat ≤ 0x3A83) ∧
  (dutyFull 0xFFFF#16 0x8C00#16 0x2000#16).toNat = 0x3A83 ∧
  (∀ sp : Word, dutyOverflows (dutyFull sp 0x0C00#16 0x2000#16) = true ↔ 0x6000 ≤ sp.toNat) ∧
  (dutyFull 0x6000#16 0x0C00#16 0x2000#16).toNat = 65536 ∧ (dutyFull 0x5FFF#16 0x0C00#16 0x2000#16).toNat = 65533 ∧
  (∀ sp : Word, (dutyFull sp 0x0C00#16 0x2000#16).toNat ≤ 0x2AAA8) ∧
  (dutyFull 0xFFFF#16 0x0C00#16 0x2000#16).toNat = 0x2AAA8 ∧ duty16 0xFFFF#16 0x0C00#16 0x2000#16 = 0xAAA8#16

/-- R86 and R87: programming a channel stores the low 16 bits of the duty of its target, records the target, and emits one
`DRIVE` with the stored duty; whatever the parameters. -/
def Obligations.ProgrammingAChannelStoresAndDrives : Prop :=
  ∀ s : State,
    (∃ t, exec .progV s = .next t ∧
      Acts s t { s.regs with
        dutyV := BitVec.ofNat 16 (voltageDuty s.params s.regs.cfgVset)
        applVset := s.regs.cfgVset
        dutyOvf := s.regs.dutyOvf || decide (65536 ≤ voltageDuty s.params s.regs.cfgVset) }
        [.drive .voltage (BitVec.ofNat 16 (voltageDuty s.params s.regs.cfgVset))]) ∧
    (∃ t, exec .progI s = .next t ∧
      Acts s t { s.regs with
        dutyI := BitVec.ofNat 16 (currentDuty s.params s.regs.cfgCset)
        applCset := s.regs.cfgCset
        dutyOvf := s.regs.dutyOvf || decide (65536 ≤ currentDuty s.params s.regs.cfgCset) }
        [.drive .current (BitVec.ofNat 16 (currentDuty s.params s.regs.cfgCset))])

/-- R89: `SP.ENABLE`, which SPC selects when `CFG_EN = 1` and `OUT_ON = 0`, programs both duties unconditionally, voltage first,
then asserts the output-enable signal. -/
def Obligations.EnableProgramsBothDutiesThenEnables : Prop :=
  ∀ s : State, (s.regs.cfgEn = true → s.regs.outOn = false → spcStep s = spEnable s) ∧ ∃ t, exec .spEnable s = .next t ∧
    Acts s t { s.regs with
      dutyV := BitVec.ofNat 16 (voltageDuty s.params s.regs.cfgVset)
      dutyI := BitVec.ofNat 16 (currentDuty s.params s.regs.cfgCset)
      applVset := s.regs.cfgVset
      applCset := s.regs.cfgCset
      outOn := true
      dutyOvf := s.regs.dutyOvf || decide (65536 ≤ voltageDuty s.params s.regs.cfgVset) ||
        decide (65536 ≤ currentDuty s.params s.regs.cfgCset) }
      [.drive .voltage (BitVec.ofNat 16 (voltageDuty s.params s.regs.cfgVset)),
        .drive .current (BitVec.ofNat 16 (currentDuty s.params s.regs.cfgCset)), .outEn true]

/-- R90: `SP.DISABLE`, which SPC selects when `CFG_EN = 0` and `OUT_ON = 1`, deasserts the output-enable signal, then zeroes both
duties and clears the record; the targets and `DUTY_OVF` stay. -/
def Obligations.DisableDeassertsThenClears : Prop :=
  ∀ s : State, (s.regs.cfgEn = false → s.regs.outOn = true → spcStep s = spDisable s) ∧ ∃ t, exec .spDisable s = .next t ∧
    Acts s t { s.regs with outOn := false, dutyV := 0, dutyI := 0, applVset := 0, applCset := 0 }
      [.outEn false, .drive .voltage 0, .drive .current 0]

/-- R91: `SP.RECONCILE`, which SPC selects when `CFG_EN = 1` and `OUT_ON = 1`, reprograms exactly the channels whose target
differs from the one last applied, voltage first. -/
def Obligations.ReconcileReprogramsChangedTargets : Prop :=
  ∀ s : State, (s.regs.cfgEn = true → s.regs.outOn = true → spcStep s = spReconcile s) ∧ ∃ t, exec .spReconcile s = .next t ∧
    Acts s t { s.regs with
      dutyV := if s.regs.cfgVset = s.regs.applVset then s.regs.dutyV
        else BitVec.ofNat 16 (voltageDuty s.params s.regs.cfgVset)
      dutyI := if s.regs.cfgCset = s.regs.applCset then s.regs.dutyI
        else BitVec.ofNat 16 (currentDuty s.params s.regs.cfgCset)
      applVset := s.regs.cfgVset
      applCset := s.regs.cfgCset
      dutyOvf := s.regs.dutyOvf ||
        (decide (s.regs.cfgVset ≠ s.regs.applVset) && decide (65536 ≤ voltageDuty s.params s.regs.cfgVset)) ||
        (decide (s.regs.cfgCset ≠ s.regs.applCset) && decide (65536 ≤ currentDuty s.params s.regs.cfgCset)) }
      ((if s.regs.cfgVset = s.regs.applVset then []
          else [.drive .voltage (BitVec.ofNat 16 (voltageDuty s.params s.regs.cfgVset))]) ++
        (if s.regs.cfgCset = s.regs.applCset then []
          else [.drive .current (BitVec.ofNat 16 (currentDuty s.params s.regs.cfgCset))]))

/-- `SP.HOLD` does nothing (R92), and a tick with `CFG_EN = 0` and `OUT_ON = 0` changes no register of SPC and emits no event of
SPC, whatever the targets. -/
def Obligations.HoldDoesNothing : Prop :=
  ∀ s : State, (∃ t, exec .spHold s = .next t ∧ Acts s t s.regs []) ∧
    ∀ (rdy cc aux : Bool) (raw : Sample), s.regs.cfgEn = false → s.regs.outOn = false →
      ∃ t, exec (.tick rdy cc aux raw) s = .next t ∧ SameSpcRegs s.regs t.regs ∧ t.regs.dutyOvf = s.regs.dutyOvf ∧
        t.resp.events.filter isSpc = []

/-- R93: the transition table of the enable/disable FSM, for every state and input of a tick; the reset state is `OFF`. -/
def Obligations.SetpointTransitionTable : Prop :=
  (∀ p : Config.Params, (State.resetWith p).regs.outOn = false) ∧
  ∀ (s : State) (rdy cc aux : Bool) (raw : Sample), ∃ t, exec (.tick rdy cc aux raw) s = .next t ∧
    t.regs.outOn = s.regs.cfgEn ∧
    t.resp.events.filter isSpc =
      (match s.regs.outOn, s.regs.cfgEn with
       | false, false => []
       | false, true => [.drive .voltage (BitVec.ofNat 16 (voltageDuty s.params s.regs.cfgVset)),
           .drive .current (BitVec.ofNat 16 (currentDuty s.params s.regs.cfgCset)), .outEn true]
       | true, true =>
           (if s.regs.cfgVset = s.regs.applVset then []
             else [.drive .voltage (BitVec.ofNat 16 (voltageDuty s.params s.regs.cfgVset))]) ++
           (if s.regs.cfgCset = s.regs.applCset then []
             else [.drive .current (BitVec.ofNat 16 (currentDuty s.params s.regs.cfgCset))])
       | true, false => [.outEn false, .drive .voltage 0, .drive .current 0])

/-- A request made before a tick is honoured by that tick (the second half of R137): afterwards the output is as requested, and
while it is on, the targets are the ones applied and the duties are theirs, if they were before. -/
def Obligations.TickHonoursTheRequest : Prop :=
  ∀ (s t : State) (rdy cc aux : Bool) (raw : Sample), OnDutiesMatch s → exec (.tick rdy cc aux raw) s = .next t →
    t.regs.outOn = s.regs.cfgEn ∧
    (s.regs.cfgEn = true → t.regs.applVset = s.regs.cfgVset ∧ t.regs.applCset = s.regs.cfgCset ∧
      t.regs.dutyV.toNat = voltageDuty s.params s.regs.cfgVset % 65536 ∧
      t.regs.dutyI.toNat = currentDuty s.params s.regs.cfgCset % 65536)

/-! ### The machine as a whole -/

/-- R103: the events of a tick are an ADC group by `BUSY`, `RDY` and `CH`, then `DIAG_AUX` if the input changed, then an SPC group
of one of the forms of R93, and there are at most seven. -/
def Obligations.TickEventsComeInThreeGroups : Prop :=
  ∀ (s : State) (rdy cc aux : Bool) (raw : Sample), ∃ t adc spc,
    exec (.tick rdy cc aux raw) s = .next t ∧
    t.resp.events = adc ++ (if aux = s.regs.auxLast then [] else [.diagAux aux]) ++ spc ∧ t.resp.events.length ≤ 7 ∧
    ((s.regs.busy = false ∧ adc = [.adcStart s.regs.ch]) ∨
      (s.regs.busy = true ∧ rdy = false ∧ adc = []) ∨
      (s.regs.busy = true ∧ rdy = true ∧ s.regs.ch = .current ∧ adc = [.adcRead, .adcStart .voltageOut]) ∨
      (s.regs.busy = true ∧ rdy = true ∧ s.regs.ch = .voltageOut ∧ adc = [.adcRead, .adcStart .voltageIn]) ∨
      (s.regs.busy = true ∧ rdy = true ∧ s.regs.ch = .voltageIn ∧
        ∃ d3 d2 d1 d0, adc = [.adcRead, .display d3 d2 d1 d0, .adcStart .current])) ∧
    ((s.regs.cfgEn = false ∧ s.regs.outOn = false ∧ spc = []) ∨
      (s.regs.cfgEn = true ∧ s.regs.outOn = false ∧ ∃ v i, spc = [.drive .voltage v, .drive .current i, .outEn true]) ∨
      (s.regs.cfgEn = true ∧ s.regs.outOn = true ∧ (spc = [] ∨ (∃ v, spc = [.drive .voltage v]) ∨
        (∃ i, spc = [.drive .current i]) ∨ ∃ v i, spc = [.drive .voltage v, .drive .current i])) ∨
      (s.regs.cfgEn = false ∧ s.regs.outOn = true ∧ spc = [.outEn false, .drive .voltage 0, .drive .current 0]))

/-- Every step keeps the invariant, from every state that meets it, whatever is presented and whatever the parameters: the
record is clear while the output is off (R27 item 3), the duties are those of the applied set-points while it is on (item 5),
SEQ and SPC are untouched before the first tick (R20, U15), and the accumulator holds the last calibrated value (R18). -/
def Obligations.StepKeepsInvariant : Prop :=
  ∀ s t : State, MachineInv s → step s = .next t → MachineInv t

/-- The invariant holds right after reset, whatever the parameters. -/
def Obligations.ResetMeetsInvariant : Prop :=
  MachineInv State.reset ∧ ∀ p : Config.Params, MachineInv (State.resetWith p)

/-- Every register has one writer (R26). A word that is no TICK changes no register of SEQ or SPC and sets no flag. A TICK
changes no register of the host and clears no flag, so the multiplier's views read as before (R65). Within a tick a
micro-operation of SEQ changes no register of the host or of SPC, nor `DUTY_OVF`, and one of SPC no register of the host or of
SEQ, nor `CAL_OVF` or `CAL_UNF`. -/
def Obligations.EachRegisterHasOneWriter : Prop :=
  (∀ (s t : State) (w : OpWord), step (s.present w) = .next t →
    (w.extractLsb' 22 2 ≠ 0b11#2 → SameSeqRegs s.regs t.regs ∧ SameSpcRegs s.regs t.regs ∧ FlagsKept t.regs s.regs) ∧
    (w.extractLsb' 22 2 = 0b11#2 → SameHostRegs s.regs t.regs ∧ FlagsKept s.regs t.regs ∧
      mulP t.regs = mulP s.regs ∧ mulPh t.regs = mulPh s.regs)) ∧
  (∀ (s t : State) (raw : Sample) (cc aux : Bool),
    ∀ i ∈ [Instr.adcKick, .adcDone raw, .adcWait, .calI raw, .calVo raw, .calVi raw, .disp raw, .sense cc, .diag aux],
      exec i s = .next t →
        SameHostRegs s.regs t.regs ∧ SameSpcRegs s.regs t.regs ∧ t.regs.dutyOvf = s.regs.dutyOvf ∧ FlagsKept s.regs t.regs) ∧
  (∀ (s t : State) (sp m d : Word),
    ∀ i ∈ [Instr.duty sp m d, .progV, .progI, .spEnable, .spDisable, .spReconcile, .spHold],
      exec i s = .next t →
        SameHostRegs s.regs t.regs ∧ SameSeqRegs s.regs t.regs ∧ t.regs.calOvf = s.regs.calOvf ∧
        t.regs.calUnf = s.regs.calUnf ∧ FlagsKept s.regs t.regs)

/-- The block never halts and never refuses a further word (R106): every state has a next state, whatever is presented; and the
parameters of the instance never change (R6). That a step takes the oldest entry of a stream held in the state, be it a word or
reset, and takes nothing from an empty one, is the model's choice (log 1, log 2, log 3). -/
def Obligations.StepAlwaysAnswers : Prop :=
  ∀ s : State, ∃ t, step s = .next t ∧ t.params = s.params ∧ t.pending = s.pending.tail

/-- A response with an error code has `rdata` 0 and no event, and leaves every register as it was (the last sentence of R49;
R109). -/
def Obligations.ErrorsChangeNothing : Prop :=
  ∀ s t : State, step s = .next t → t.resp.ecode ≠ .ok → t.regs = s.regs ∧ t.resp.rdata = 0 ∧ t.resp.events = []

/-- The flags are sticky (R24): only reset and a `WR STATUS` with that bit 1 clear one. -/
def Obligations.FlagsStickUntilCleared : Prop :=
  ∀ (s t : State) (w : OpWord), step (s.present w) = .next t →
    (s.regs.calOvf = true → t.regs.calOvf = false → ∃ d : Word, decode w = .instr (.wrStatus d) ∧ d.getLsbD 0 = true) ∧
    (s.regs.calUnf = true → t.regs.calUnf = false → ∃ d : Word, decode w = .instr (.wrStatus d) ∧ d.getLsbD 1 = true) ∧
    (s.regs.dutyOvf = true → t.regs.dutyOvf = false → ∃ d : Word, decode w = .instr (.wrStatus d) ∧ d.getLsbD 2 = true)

/-- R71: over every run from reset the ADC events alternate `ADC_START`, `ADC_READ`, starting with a start; the k-th start and
the k-th read are of channel `k mod 3`. It rests on what every step keeps, from every state: `BUSY` and `CH` are what the starts
and reads emitted so far make them. -/
def Obligations.ChannelsAreSampledRoundRobin : Prop :=
  (∀ (s t : State) (w : OpWord) (emitted : List Event), AdcSoFar emitted s.regs → step (s.present w) = .next t →
    AdcSoFar (emitted ++ t.resp.events) t.regs) ∧
  ∀ (p : Config.Params) (ws : List OpWord),
    (∀ k e, ((trace (State.resetWith p) ws).filter isAdc)[k]? = some e →
      e = if k % 2 = 0 then .adcStart (channelOf (k / 2)) else .adcRead) ∧
    (∀ k c, (readChannels (State.resetWith p) ws)[k]? = some c → c = channelOf k)

/-- R94: in the event trace of every run from reset the output is enabled only right after both duties, disabled before both
are zeroed, each in one tick; the enables and disables alternate; and no duty but 0 is driven between a disable and the pair
that precedes the next enable. It rests on what every step keeps, from every state: `OUT_ON` is the last level emitted, and a
step that finds the output off and leaves it off drives nothing. -/
def Obligations.OutputIsSwitchedInOrder : Prop :=
  (∀ (s t : State) (w : OpWord) (emitted : List Event), OutEnSoFar emitted s.regs → step (s.present w) = .next t →
    OutEnSoFar (emitted ++ t.resp.events) t.regs ∧
    (s.regs.outOn = false → t.regs.outOn = false → t.resp.events.filter isSpc = [])) ∧
  ∀ (p : Config.Params) (ws : List OpWord),
    (∀ r ∈ responses (State.resetWith p) ws, ∀ before after,
      (r.events = before ++ .outEn true :: after →
        ∃ b v i, before = b ++ [.drive .voltage v, .drive .current i]) ∧
      (r.events = before ++ .outEn false :: after → ∃ a, after = .drive .voltage 0 :: .drive .current 0 :: a)) ∧
    (∀ k level, ((trace (State.resetWith p) ws).filterMap outEnLevel)[k]? = some level → level = decide (k % 2 = 0)) ∧
    (∀ before between after ch duty,
      trace (State.resetWith p) ws = before ++ .outEn false :: (between ++ .drive ch duty :: after) →
      (∀ level, .outEn level ∉ between) → duty ≠ 0 →
        (∃ a, after = .outEn true :: a) ∨ (∃ i a, after = .drive .current i :: .outEn true :: a))

/-- SPC never reads a measurement (R83): two runs that differ only in the inputs of their TICK words, from states that agree on
what SPC reads and writes, agree on it throughout and give the drive and the output enable the same events. -/
def Obligations.SetpointsIgnoreMeasurements : Prop :=
  ∀ (s t : State) (vs ws : List OpWord), SameForSpc s t → List.Forall₂ SameButTickInputs vs ws →
    SameForSpc (finalState s vs) (finalState t ws) ∧
    (trace s vs).filter isSpc = (trace t ws).filter isSpc

/-- Of two writes of one address with no tick between them, whatever other words come between, only the last is seen by the
words that follow (R129, R39): the same events and the same registers as without the first. Not so for the address of `STATUS`,
whose write depends on the old value (R40). -/
def Obligations.LastWriteBeforeTheTickWins : Prop :=
  ∀ (s : State) (a : Addr) (d e : Word) (between after : List OpWord), a ≠ 0x1E#5 →
    (∀ w ∈ between, w.extractLsb' 22 2 ≠ 0b11#2) →
      (finalState s (wrWord a d :: between ++ wrWord a e :: after)).regs =
        (finalState s (between ++ wrWord a e :: after)).regs ∧
      trace s (wrWord a d :: between ++ wrWord a e :: after) = trace s (between ++ wrWord a e :: after)

/-- The error code of a response as the number the host sees (R49, R109), decided in the order of R115: 3 for exactly the
malformed words, 1 for exactly the well-formed RD and WR of an unmapped address, 2 for exactly the well-formed WR of a read-only
one, and 0 for every other word. -/
def Obligations.ErrorCodesAreTheNumbersOfTheTable : Prop :=
  ECode.ok.code = 0#2 ∧ ECode.unmapped.code = 1#2 ∧ ECode.readOnly.code = 2#2 ∧ ECode.malformed.code = 3#2 ∧
  ∀ (s : State) (w : OpWord), ∃ t, step (s.present w) = .next t ∧
    (t.resp.ecode.code = 3#2 ↔ FixedBitSet w) ∧
    (t.resp.ecode.code = 1#2 ↔ ¬FixedBitSet w ∧ (w.extractLsb' 22 2 = 0b01#2 ∨ w.extractLsb' 22 2 = 0b10#2) ∧
      w.extractLsb' 16 5 ∈ [0x03#5, 0x09#5, 0x0A#5, 0x0B#5, 0x13#5, 0x1F#5]) ∧
    (t.resp.ecode.code = 2#2 ↔ ¬FixedBitSet w ∧ w.extractLsb' 22 2 = 0b10#2 ∧
      (w.extractLsb' 16 5).toNat ∈ readOnlyAddrs)
end

