-- ==== Sys2Proof/Laws/State.lean ====
section
/-! SUPPORT. One lemma per field of the state and per named update, each true by unfolding, so that no later proof unfolds a
record update. -/

namespace Sys2Proof.Machine

@[simp] theorem Response.empty_rdata : Response.empty.rdata = 0 := rfl
@[simp] theorem Response.empty_ecode : Response.empty.ecode = .ok := rfl
@[simp] theorem Response.empty_events : Response.empty.events = [] := rfl

@[simp] theorem State.start_regs (s : State) : s.start.regs = s.regs := rfl
@[simp] theorem State.start_params (s : State) : s.start.params = s.params := rfl
@[simp] theorem State.start_pending (s : State) : s.start.pending = s.pending := rfl
@[simp] theorem State.start_resp (s : State) : s.start.resp = Response.empty := rfl
@[simp] theorem State.start_value (s : State) : s.start.value = 0 := rfl

@[simp] theorem State.withRegs_regs (s : State) (r : Regs) : (s.withRegs r).regs = r := rfl
@[simp] theorem State.withRegs_params (s : State) (r : Regs) : (s.withRegs r).params = s.params := rfl
@[simp] theorem State.withRegs_pending (s : State) (r : Regs) : (s.withRegs r).pending = s.pending := rfl
@[simp] theorem State.withRegs_resp (s : State) (r : Regs) : (s.withRegs r).resp = s.resp := rfl
@[simp] theorem State.withRegs_value (s : State) (r : Regs) : (s.withRegs r).value = s.value := rfl

@[simp] theorem State.emit_regs (s : State) (e : Event) : (s.emit e).regs = s.regs := rfl
@[simp] theorem State.emit_params (s : State) (e : Event) : (s.emit e).params = s.params := rfl
@[simp] theorem State.emit_pending (s : State) (e : Event) : (s.emit e).pending = s.pending := rfl
@[simp] theorem State.emit_resp (s : State) (e : Event) : (s.emit e).resp = { s.resp with events := s.resp.events ++ [e] } := rfl
@[simp] theorem State.emit_value (s : State) (e : Event) : (s.emit e).value = s.value := rfl

@[simp] theorem State.answer_regs (s : State) (d : Word) : (s.answer d).regs = s.regs := rfl
@[simp] theorem State.answer_params (s : State) (d : Word) : (s.answer d).params = s.params := rfl
@[simp] theorem State.answer_pending (s : State) (d : Word) : (s.answer d).pending = s.pending := rfl
@[simp] theorem State.answer_resp (s : State) (d : Word) : (s.answer d).resp = ⟨d, .ok, []⟩ := rfl
@[simp] theorem State.answer_value (s : State) (d : Word) : (s.answer d).value = s.value := rfl

@[simp] theorem State.withValue_regs (s : State) (v : Product) : (s.withValue v).regs = s.regs := rfl
@[simp] theorem State.withValue_params (s : State) (v : Product) : (s.withValue v).params = s.params := rfl
@[simp] theorem State.withValue_pending (s : State) (v : Product) : (s.withValue v).pending = s.pending := rfl
@[simp] theorem State.withValue_resp (s : State) (v : Product) : (s.withValue v).resp = s.resp := rfl
@[simp] theorem State.withValue_value (s : State) (v : Product) : (s.withValue v).value = v := rfl

@[simp] theorem State.raiseBusError_regs (s : State) (c : ECode) : (s.raiseBusError c).regs = s.regs := rfl
@[simp] theorem State.raiseBusError_params (s : State) (c : ECode) : (s.raiseBusError c).params = s.params := rfl
@[simp] theorem State.raiseBusError_pending (s : State) (c : ECode) : (s.raiseBusError c).pending = s.pending := rfl
@[simp] theorem State.raiseBusError_resp (s : State) (c : ECode) : (s.raiseBusError c).resp = ⟨0, c, []⟩ := rfl
@[simp] theorem State.raiseBusError_value (s : State) (c : ECode) : (s.raiseBusError c).value = s.value := rfl

@[simp] theorem State.applyReset_regs (s : State) : s.applyReset.regs = Regs.reset := rfl
@[simp] theorem State.applyReset_params (s : State) : s.applyReset.params = s.params := rfl
@[simp] theorem State.applyReset_pending (s : State) : s.applyReset.pending = s.pending := rfl
@[simp] theorem State.applyReset_resp (s : State) : s.applyReset.resp = Response.empty := rfl
@[simp] theorem State.applyReset_value (s : State) : s.applyReset.value = 0 := rfl

@[simp] theorem State.presentInput_regs (s : State) (i : Input) : (s.presentInput i).regs = s.regs := rfl
@[simp] theorem State.presentInput_params (s : State) (i : Input) : (s.presentInput i).params = s.params := rfl
@[simp] theorem State.presentInput_pending (s : State) (i : Input) : (s.presentInput i).pending = i :: s.pending := rfl
@[simp] theorem State.presentInput_resp (s : State) (i : Input) : (s.presentInput i).resp = s.resp := rfl
@[simp] theorem State.presentInput_value (s : State) (i : Input) : (s.presentInput i).value = s.value := rfl

@[simp] theorem State.present_regs (s : State) (w : OpWord) : (s.present w).regs = s.regs := rfl
@[simp] theorem State.present_params (s : State) (w : OpWord) : (s.present w).params = s.params := rfl
@[simp] theorem State.present_pending (s : State) (w : OpWord) : (s.present w).pending = .word w :: s.pending := rfl
@[simp] theorem State.present_resp (s : State) (w : OpWord) : (s.present w).resp = s.resp := rfl
@[simp] theorem State.present_value (s : State) (w : OpWord) : (s.present w).value = s.value := rfl

@[simp] theorem State.taken_regs (s : State) : s.taken.regs = s.regs := rfl
@[simp] theorem State.taken_params (s : State) : s.taken.params = s.params := rfl
@[simp] theorem State.taken_pending (s : State) : s.taken.pending = s.pending.tail := rfl
@[simp] theorem State.taken_resp (s : State) : s.taken.resp = s.resp := rfl
@[simp] theorem State.taken_value (s : State) : s.taken.value = s.value := rfl

@[simp] theorem State.presentInput_taken (s : State) (i : Input) : (s.presentInput i).taken = s := rfl
@[simp] theorem State.present_taken (s : State) (w : OpWord) : (s.present w).taken = s := rfl
@[simp] theorem State.start_start (s : State) : s.start.start = s.start := rfl
@[simp] theorem State.resetWith_regs (p : Config.Params) : (State.resetWith p).regs = Regs.reset := rfl
@[simp] theorem State.resetWith_params (p : Config.Params) : (State.resetWith p).params = p := rfl
@[simp] theorem State.resetWith_resp (p : Config.Params) : (State.resetWith p).resp = Response.empty := rfl

end Sys2Proof.Machine
end

