-- ==== Sys2Proof/Laws/Fxm.lean ====
section
/-! SUPPORT. What the multiplier computes, once: the closed form of R60 and its 16-bit slice. -/

namespace Sys2Proof.Machine

open Sys2Proof.Safety

/-- Shifting, taking the rounding bit and adding it is rounding half up: the two forms of R60. -/
theorem shift_round (t : Nat) : (t >>> 9) >>> 1 + (t >>> 9) % 2 = (t + 512) / 1024 := by
  simp only [Nat.shiftRight_eq_div_pow]
  omega

theorem word_mul_le (x y : Word) : x.toNat * y.toNat ≤ 65535 * 65535 :=
  Nat.mul_le_mul (Nat.le_of_lt_succ x.isLt) (Nat.le_of_lt_succ y.isLt)

/-- The rounded product as a number (R58, R60). -/
theorem fxmulFull_toNat (x y : Word) : (fxmulFull x y).toNat = rounded x.toNat y.toNat := by
  have h := word_mul_le x y
  have e : fxmulFull x y = BitVec.ofNat 22 (rounded x.toNat y.toNat) :=
    congrArg (BitVec.ofNat 22) (shift_round (x.toNat * y.toNat))
  rw [e, BitVec.toNat_ofNat, Nat.mod_eq_of_lt]
  unfold rounded
  omega

/-- The low 16 bits of a product (R59). -/
theorem product_low_toNat (p : Product) : (p.extractLsb' 0 16).toNat = p.toNat % 65536 := by
  simp [BitVec.extractLsb'_toNat]

theorem mul16_toNat (x y : Word) : (mul16 x y).toNat = rounded x.toNat y.toNat % 65536 := by
  rw [mul16, product_low_toNat, fxmulFull_toNat]

/-- A raw sample times any gain stays below 2^16 (R62, R81). -/
theorem firstProduct_le (raw : Sample) (g : Word) : firstProduct raw g ≤ 0xFFBF := by
  have h : raw.toNat * g.toNat ≤ 1023 * 65535 :=
    Nat.mul_le_mul (Nat.le_of_lt_succ raw.isLt) (Nat.le_of_lt_succ g.isLt)
  unfold firstProduct rounded
  omega

end Sys2Proof.Machine
end

