-- ==== Sys2Proof/Laws/Operands.lean ====
section
/-! SUPPORT. What the register space does, once: reads against the table of R98, writes against that of R99 to R101, and the
meanings of the RD and WR operations by address. -/

namespace Sys2Proof.Machine

open Sys2Proof.Safety

theorem bit_toNat (b : Bool) : (BitVec.ofBool b).toNat = bit b := by cases b <;> rfl

theorem mulP_toNat (r : Regs) : (mulP r).toNat = rounded r.mulX.toNat r.mulY.toNat % 65536 := by
  rw [mulP, product_low_toNat, fxmulFull_toNat]

theorem mulPh_toNat (r : Regs) : (mulPh r).toNat = rounded r.mulX.toNat r.mulY.toNat / 65536 := by
  have h := (fxmulFull r.mulX r.mulY).isLt
  rw [← fxmulFull_toNat]
  simp only [mulPh, BitVec.zeroExtend, BitVec.toNat_setWidth, BitVec.extractLsb'_toNat, Nat.shiftRight_eq_div_pow]
  omega

theorem seqStat_toNat (r : Regs) :
    (seqStat r).toNat = channelCode r.ch + 4 * bit r.busy + 8 * bit r.ccActive + 16 * bit r.auxLast := by
  unfold seqStat
  cases r.ch <;> cases r.busy <;> cases r.ccActive <;> cases r.auxLast <;> rfl

theorem spcStat_toNat (r : Regs) : (spcStat r).toNat = bit r.outOn := by
  unfold spcStat
  cases r.outOn <;> rfl

theorem statusWord_toNat (r : Regs) : (statusWord r).toNat = bit r.calOvf + 2 * bit r.calUnf + 4 * bit r.dutyOvf := by
  unfold statusWord
  cases r.calOvf <;> cases r.calUnf <;> cases r.dutyOvf <;> rfl

theorem cfgOutput_toNat (b : Bool) : ((BitVec.ofBool b).zeroExtend 16 : Word).toNat = bit b := by cases b <;> rfl

/-- `RegRead` is the table of R98; `none` is exactly the unmapped addresses. -/
theorem readTable_eq (a : Addr) (r : Regs) : readTable a.toNat r = (regAt a).map fun x => (regRead x r).toNat := by
  rcases a with ⟨⟨n, hn⟩⟩
  interval_cases n <;>
    first
    | rfl
    | exact congrArg some (mulP_toNat r).symm
    | exact congrArg some (mulPh_toNat r).symm
    | exact congrArg some (seqStat_toNat r).symm
    | exact congrArg some (spcStat_toNat r).symm
    | exact congrArg some (statusWord_toNat r).symm
    | exact congrArg some (cfgOutput_toNat r.cfgEn).symm

/-- The bits that the host's writes look at (R100, R101). -/
theorem bit0_eq (d : Word) : d.getLsbD 0 = decide (d.toNat % 2 = 1) := by
  simp only [BitVec.getLsbD, Nat.testBit_zero]

theorem bit1_eq (d : Word) : d.getLsbD 1 = decide (d.toNat / 2 % 2 = 1) := by
  simp only [BitVec.getLsbD, Nat.testBit_succ, Nat.testBit_zero]

theorem bit2_eq (d : Word) : d.getLsbD 2 = decide (d.toNat / 4 % 2 = 1) := by
  simp only [BitVec.getLsbD, Nat.testBit_succ, Nat.testBit_zero, Nat.div_div_eq_div_mul]

theorem and_not_decide (b : Bool) (p : Prop) [Decidable p] : (b && !decide p) = if p then false else b := by
  by_cases h : p <;> simp [h]

/-- Write-one-to-clear (R101). -/
theorem clearFlags_spec (d : Word) (r : Regs) : clearFlags d r = { r with
    calOvf := if d.toNat % 2 = 1 then false else r.calOvf
    calUnf := if d.toNat / 2 % 2 = 1 then false else r.calUnf
    dutyOvf := if d.toNat / 4 % 2 = 1 then false else r.dutyOvf } := by
  simp only [clearFlags, bit0_eq, bit1_eq, bit2_eq, and_not_decide]

/-- The RD operation of an address is `RegRead` of the register there, or the bus error (R98). -/
theorem exec_decodeRd (a : Addr) (s : State) :
    exec (decodeRd a) s = .next (match regAt a with | some x => s.hostRead x | none => s.hostUnmapped) := by
  rcases a with ⟨⟨n, hn⟩⟩
  interval_cases n <;> rfl

/-- The WR operation of an address is the host's write of the register there, or the bus error (R99). -/
theorem exec_decodeWr (a : Addr) (d : Word) (s : State) :
    exec (decodeWr a d) s = .next (match regAt a with | some x => s.hostWrite x d | none => s.hostUnmapped) := by
  rcases a with ⟨⟨n, hn⟩⟩
  interval_cases n <;> rfl

/-- What a host write can do (R99 to R101): be refused with code 2, or write what the table of the rule says. -/
theorem hostWrite_cases (s : State) (a : Addr) (x : Reg) (d : Word) (h : regAt a = some x) :
    (a.toNat ∈ readOnlyAddrs ∧ s.hostWrite x d = s.start.raiseBusError .readOnly) ∨
    (a.toNat ∉ readOnlyAddrs ∧ ∃ r, writeTable a.toNat d s.regs = some r ∧ s.hostWrite x d = s.start.withRegs r) := by
  revert h
  rcases a with ⟨⟨n, hn⟩⟩
  interval_cases n <;> intro h <;> cases h <;>
    first
    | exact .inl ⟨by decide +revert, rfl⟩
    | exact .inr ⟨by decide +revert, _, rfl, rfl⟩
    | exact .inr ⟨by decide +revert, _, rfl, by simp only [State.hostWrite, Reg.access, regWrite, clearFlags_spec, bit0_eq]⟩

end Sys2Proof.Machine
end

