-- ==== Sys2Proof/Laws/PerInstr.lean ====
section
/-! SUPPORT. The family `HasWord`, one lemma per constructor of `Instr`: an operation has an operation word of its own and a
micro-operation has none (spec/30_encoding.md R54). -/

namespace Sys2Proof.Laws

/-- The instruction has a word exactly if it is no micro-operation. -/
def HasWord.Statement (i : Instr) : Prop := (encode i).isSome = !i.isMicro

theorem HasWord.idle : HasWord.Statement .idle := rfl
theorem HasWord.rdCfgOutput : HasWord.Statement .rdCfgOutput := rfl
theorem HasWord.rdCfgVset : HasWord.Statement .rdCfgVset := rfl
theorem HasWord.rdCfgCset : HasWord.Statement .rdCfgCset := rfl
theorem HasWord.rdCalVin : HasWord.Statement .rdCalVin := rfl
theorem HasWord.rdCalVoutA : HasWord.Statement .rdCalVoutA := rfl
theorem HasWord.rdCalVoutB : HasWord.Statement .rdCalVoutB := rfl
theorem HasWord.rdCalCoutA : HasWord.Statement .rdCalCoutA := rfl
theorem HasWord.rdCalCoutB : HasWord.Statement .rdCalCoutB := rfl
theorem HasWord.rdMulX : HasWord.Statement .rdMulX := rfl
theorem HasWord.rdMulY : HasWord.Statement .rdMulY := rfl
theorem HasWord.rdMulP : HasWord.Statement .rdMulP := rfl
theorem HasWord.rdMulPh : HasWord.Statement .rdMulPh := rfl
theorem HasWord.rdRawCout : HasWord.Statement .rdRawCout := rfl
theorem HasWord.rdRawVout : HasWord.Statement .rdRawVout := rfl
theorem HasWord.rdRawVin : HasWord.Statement .rdRawVin := rfl
theorem HasWord.rdCout : HasWord.Statement .rdCout := rfl
theorem HasWord.rdVout : HasWord.Statement .rdVout := rfl
theorem HasWord.rdVin : HasWord.Statement .rdVin := rfl
theorem HasWord.rdAcc : HasWord.Statement .rdAcc := rfl
theorem HasWord.rdSeqStat : HasWord.Statement .rdSeqStat := rfl
theorem HasWord.rdSpcStat : HasWord.Statement .rdSpcStat := rfl
theorem HasWord.rdDutyV : HasWord.Statement .rdDutyV := rfl
theorem HasWord.rdDutyI : HasWord.Statement .rdDutyI := rfl
theorem HasWord.rdApplVset : HasWord.Statement .rdApplVset := rfl
theorem HasWord.rdApplCset : HasWord.Statement .rdApplCset := rfl
theorem HasWord.rdStatus : HasWord.Statement .rdStatus := rfl
theorem HasWord.rdUnmapped (addr : Addr) : HasWord.Statement (.rdUnmapped addr) := rfl
theorem HasWord.wrCfgOutput (data : Word) : HasWord.Statement (.wrCfgOutput data) := rfl
theorem HasWord.wrCfgVset (data : Word) : HasWord.Statement (.wrCfgVset data) := rfl
theorem HasWord.wrCfgCset (data : Word) : HasWord.Statement (.wrCfgCset data) := rfl
theorem HasWord.wrCalVin (data : Word) : HasWord.Statement (.wrCalVin data) := rfl
theorem HasWord.wrCalVoutA (data : Word) : HasWord.Statement (.wrCalVoutA data) := rfl
theorem HasWord.wrCalVoutB (data : Word) : HasWord.Statement (.wrCalVoutB data) := rfl
theorem HasWord.wrCalCoutA (data : Word) : HasWord.Statement (.wrCalCoutA data) := rfl
theorem HasWord.wrCalCoutB (data : Word) : HasWord.Statement (.wrCalCoutB data) := rfl
theorem HasWord.wrMulX (data : Word) : HasWord.Statement (.wrMulX data) := rfl
theorem HasWord.wrMulY (data : Word) : HasWord.Statement (.wrMulY data) := rfl
theorem HasWord.wrMulP (data : Word) : HasWord.Statement (.wrMulP data) := rfl
theorem HasWord.wrMulPh (data : Word) : HasWord.Statement (.wrMulPh data) := rfl
theorem HasWord.wrRawCout (data : Word) : HasWord.Statement (.wrRawCout data) := rfl
theorem HasWord.wrRawVout (data : Word) : HasWord.Statement (.wrRawVout data) := rfl
theorem HasWord.wrRawVin (data : Word) : HasWord.Statement (.wrRawVin data) := rfl
theorem HasWord.wrCout (data : Word) : HasWord.Statement (.wrCout data) := rfl
theorem HasWord.wrVout (data : Word) : HasWord.Statement (.wrVout data) := rfl
theorem HasWord.wrVin (data : Word) : HasWord.Statement (.wrVin data) := rfl
theorem HasWord.wrAcc (data : Word) : HasWord.Statement (.wrAcc data) := rfl
theorem HasWord.wrSeqStat (data : Word) : HasWord.Statement (.wrSeqStat data) := rfl
theorem HasWord.wrSpcStat (data : Word) : HasWord.Statement (.wrSpcStat data) := rfl
theorem HasWord.wrDutyV (data : Word) : HasWord.Statement (.wrDutyV data) := rfl
theorem HasWord.wrDutyI (data : Word) : HasWord.Statement (.wrDutyI data) := rfl
theorem HasWord.wrApplVset (data : Word) : HasWord.Statement (.wrApplVset data) := rfl
theorem HasWord.wrApplCset (data : Word) : HasWord.Statement (.wrApplCset data) := rfl
theorem HasWord.wrStatus (data : Word) : HasWord.Statement (.wrStatus data) := rfl
theorem HasWord.wrUnmapped (addr : Addr) (data : Word) : HasWord.Statement (.wrUnmapped addr data) := rfl
theorem HasWord.tick (rdy cc aux : Bool) (raw : Sample) : HasWord.Statement (.tick rdy cc aux raw) := rfl
theorem HasWord.adcKick : HasWord.Statement .adcKick := rfl
theorem HasWord.adcDone (raw : Sample) : HasWord.Statement (.adcDone raw) := rfl
theorem HasWord.adcWait : HasWord.Statement .adcWait := rfl
theorem HasWord.calI (raw : Sample) : HasWord.Statement (.calI raw) := rfl
theorem HasWord.calVo (raw : Sample) : HasWord.Statement (.calVo raw) := rfl
theorem HasWord.calVi (raw : Sample) : HasWord.Statement (.calVi raw) := rfl
theorem HasWord.disp (raw : Sample) : HasWord.Statement (.disp raw) := rfl
theorem HasWord.fxmul (x y : Word) : HasWord.Statement (.fxmul x y) := rfl
theorem HasWord.sense (cc : Bool) : HasWord.Statement (.sense cc) := rfl
theorem HasWord.diag (aux : Bool) : HasWord.Statement (.diag aux) := rfl
theorem HasWord.duty (sp m d : Word) : HasWord.Statement (.duty sp m d) := rfl
theorem HasWord.progV : HasWord.Statement .progV := rfl
theorem HasWord.progI : HasWord.Statement .progI := rfl
theorem HasWord.spEnable : HasWord.Statement .spEnable := rfl
theorem HasWord.spDisable : HasWord.Statement .spDisable := rfl
theorem HasWord.spReconcile : HasWord.Statement .spReconcile := rfl
theorem HasWord.spHold : HasWord.Statement .spHold := rfl

end Sys2Proof.Laws
end

