-- ==== Sys2Proof/Laws/Seq.lean ====
section
/-! SUPPORT. What each micro-operation of SEQ does, once, with its arithmetic in closed form. -/

namespace Sys2Proof.Machine

open Sys2Proof.Safety

theorem sample_toNat (raw : Sample) : (raw.zeroExtend 16 : Word).toNat = raw.toNat := by
  have := raw.isLt
  simp [BitVec.toNat_setWidth]
  omega

/-- The second product of `ACC.SCALE` (R72): the first one loses no bit. -/
theorem secondProduct_eq (raw : Sample) (g : Word) :
    (fxmulFull (mul16 (raw.zeroExtend 16) g) Config.refVolt).toNat = secondProduct raw g := by
  have h := firstProduct_le raw g
  rw [fxmulFull_toNat, mul16_toNat, sample_toNat]
  change rounded (firstProduct raw g % 65536) 3379 = _
  rw [Nat.mod_eq_of_lt (by omega)]
  rfl

/-- `ACC.SCALE` (R72). -/
theorem accScale_spec (raw : Sample) (g : Word) (r : Regs) :
    accScale raw g r = { r with
      acc := BitVec.ofNat 16 (secondProduct raw g)
      calOvf := r.calOvf || decide (65536 ≤ secondProduct raw g) } := by
  have h : ((fxmulFull (mul16 (raw.zeroExtend 16) g) Config.refVolt).extractLsb' 0 16 : Word)
      = BitVec.ofNat 16 (secondProduct raw g) := by
    apply BitVec.eq_of_toNat_eq
    rw [product_low_toNat, secondProduct_eq, BitVec.toNat_ofNat]
  simp only [accScale, calOverflows, h, secondProduct_eq]
  rfl

/-- The subtraction of an offset from the scaled value (R72). -/
theorem offsetBy_eq (raw : Sample) (g b : Word) :
    BitVec.ofNat 16 (secondProduct raw g) - b = offsetBy raw g b := by
  have hb := b.isLt
  apply BitVec.eq_of_toNat_eq
  simp only [offsetBy, scaled, BitVec.toNat_sub, BitVec.toNat_ofNat]
  omega

/-- `ACC.SCALE` then `ACC.OFFSET`, as `CAL.I` and `CAL.VO` use them (R72). -/
theorem accOffset_accScale_spec (raw : Sample) (g b : Word) (r : Regs) :
    accOffset b (accScale raw g r) = { r with
      acc := offsetBy raw g b
      calOvf := r.calOvf || decide (65536 ≤ secondProduct raw g)
      calUnf := r.calUnf || decide (scaled raw g < b.toNat) } := by
  rw [accScale_spec]
  simp only [accOffset, calBorrows, offsetBy_eq, BitVec.toNat_ofNat]
  rfl

/-- `CAL.I` (R73). -/
theorem calI_spec (raw : Sample) (s : State) :
    calI raw s = s.withRegs { s.regs with
      rawCout := raw
      acc := offsetBy raw s.regs.calCoutA s.regs.calCoutB
      cout := offsetBy raw s.regs.calCoutA s.regs.calCoutB
      calOvf := s.regs.calOvf || decide (65536 ≤ secondProduct raw s.regs.calCoutA)
      calUnf := s.regs.calUnf || decide (scaled raw s.regs.calCoutA < s.regs.calCoutB.toNat) } := by
  simp only [calI, accOffset_accScale_spec]

/-- `CAL.VO` (R74). -/
theorem calVo_spec (raw : Sample) (s : State) :
    calVo raw s = s.withRegs { s.regs with
      rawVout := raw
      acc := offsetBy raw s.regs.calVoutA s.regs.calVoutB
      vout := offsetBy raw s.regs.calVoutA s.regs.calVoutB
      calOvf := s.regs.calOvf || decide (65536 ≤ secondProduct raw s.regs.calVoutA)
      calUnf := s.regs.calUnf || decide (scaled raw s.regs.calVoutA < s.regs.calVoutB.toNat) } := by
  simp only [calVo, accOffset_accScale_spec]

/-- `CAL.VI` (R75), with the event of `DISP`. -/
theorem calVi_spec (raw : Sample) (s : State) :
    calVi raw s = disp raw (s.withRegs { s.regs with
      rawVin := raw
      acc := BitVec.ofNat 16 (secondProduct raw s.regs.calVin)
      vin := BitVec.ofNat 16 (secondProduct raw s.regs.calVin)
      calOvf := s.regs.calOvf || decide (65536 ≤ secondProduct raw s.regs.calVin) }) := by
  simp only [calVi, accScale_spec]

/-- The digits that `DISP` sends depend on the sample only (R77). -/
theorem disp_spec (raw : Sample) : ∃ d3 d2 d1 d0 : Fin 10,
    (∀ s, disp raw s = s.emit (.display d3 d2 d1 d0)) ∧ d3.val = raw.toNat / 1000 ∧ d2.val = raw.toNat / 100 % 10 ∧
    d1.val = raw.toNat / 10 % 10 ∧ d0.val = raw.toNat % 10 := by
  have h := raw.isLt
  refine ⟨_, _, _, _, fun _ => rfl, ?_, rfl, rfl, rfl⟩
  exact Nat.mod_eq_of_lt (by omega)

@[simp] theorem disp_regs (raw : Sample) (s : State) : (disp raw s).regs = s.regs := rfl
@[simp] theorem disp_params (raw : Sample) (s : State) : (disp raw s).params = s.params := rfl
@[simp] theorem disp_pending (raw : Sample) (s : State) : (disp raw s).pending = s.pending := rfl

/-- `ADC.KICK` (R68). -/
theorem adcKick_spec (s : State) :
    adcKick s = (s.emit (.adcStart s.regs.ch)).withRegs { s.regs with busy := true } := rfl

/-- The channel advance and restart (R69, R76). -/
theorem advance_spec (s : State) :
    advance s = (s.withRegs { s.regs with ch := s.regs.ch.next }).emit (.adcStart s.regs.ch.next) := rfl

/-- `DIAG` (R80): `AUX_LAST` follows `AUX`; the event only on a change. -/
theorem diag_spec (aux : Bool) (s : State) :
    (diag aux s).regs = { s.regs with auxLast := aux } ∧ (diag aux s).params = s.params ∧
    (diag aux s).pending = s.pending ∧ (diag aux s).value = s.value ∧
    (diag aux s).resp = { s.resp with
      events := s.resp.events ++ (if aux = s.regs.auxLast then [] else [.diagAux aux]) } := by
  by_cases h : aux = s.regs.auxLast
  · subst h; simp [diag]
  · simp [diag, h]

/-- The ADC micro-operation of a tick is one of three (R67). -/
theorem adcStep_cases (rdy : Bool) (raw : Sample) (s : State) :
    (s.regs.busy = false ∧ adcStep rdy raw s = adcKick s) ∨
    (s.regs.busy = true ∧ rdy = true ∧ adcStep rdy raw s = adcDone raw s) ∨
    (s.regs.busy = true ∧ rdy = false ∧ adcStep rdy raw s = s) := by
  cases hb : s.regs.busy <;> cases rdy <;> simp [adcStep, adcWait, hb]

end Sys2Proof.Machine
end

