-- ==== Sys2Proof/Laws/Spc.lean ====
section
/-! SUPPORT. What each micro-operation of SPC does, once, with its arithmetic in closed form. -/

namespace Sys2Proof.Machine

open Sys2Proof.Safety

/-- Nested floor division: the source's two steps are one division (R84). -/
theorem two_step_division (t m : Nat) : ((t <<< 10) / m) >>> 10 = t / m := by
  rw [Nat.shiftLeft_eq, Nat.shiftRight_eq_div_pow, Nat.div_div_eq_div_mul, Nat.mul_comm m]
  exact Nat.mul_comm t (2 ^ 10) ▸ Nat.mul_div_mul_left t m (by decide)

/-- The duty as a number: it always fits 32 bits (R84, R85). -/
theorem dutyFull_toNat (sp m d : Word) : (dutyFull sp m d).toNat = dutyQuotient sp m d := by
  have h : sp.toNat * d.toNat ≤ 65535 * 65535 :=
    Nat.mul_le_mul (Nat.le_of_lt_succ sp.isLt) (Nat.le_of_lt_succ d.isLt)
  have e : dutyFull sp m d = BitVec.ofNat 32 (dutyQuotient sp m d) :=
    congrArg (BitVec.ofNat 32) (two_step_division (sp.toNat * d.toNat) m.toNat)
  rw [e, BitVec.toNat_ofNat, Nat.mod_eq_of_lt]
  exact Nat.lt_of_le_of_lt (Nat.div_le_self _ _) (by omega)

/-- The 16 bits of a duty that are programmed (R84). -/
theorem duty16_eq (sp m d : Word) : duty16 sp m d = BitVec.ofNat 16 (dutyQuotient sp m d) := by
  apply BitVec.eq_of_toNat_eq
  rw [duty16, BitVec.extractLsb'_toNat, dutyFull_toNat, BitVec.toNat_ofNat, Nat.shiftRight_zero]

theorem duty16_toNat (sp m d : Word) : (duty16 sp m d).toNat = dutyQuotient sp m d % 65536 := by
  rw [duty16_eq, BitVec.toNat_ofNat]

/-- `DUTY_OVF` (R84). -/
theorem noteDuty_spec (sp m d : Word) (r : Regs) :
    noteDuty sp m d r = { r with dutyOvf := r.dutyOvf || decide (65536 ≤ dutyQuotient sp m d) } := by
  simp only [noteDuty, dutyOverflows, dutyFull_toNat]
  rfl

/-- `PROG.V` (R86). -/
theorem progV_spec (s : State) :
    progV s = (s.emit (.drive .voltage (BitVec.ofNat 16 (voltageDuty s.params s.regs.cfgVset)))).withRegs { s.regs with
      dutyV := BitVec.ofNat 16 (voltageDuty s.params s.regs.cfgVset)
      applVset := s.regs.cfgVset
      dutyOvf := s.regs.dutyOvf || decide (65536 ≤ voltageDuty s.params s.regs.cfgVset) } := by
  simp only [progV, noteDuty_spec, duty16_eq]
  rfl

/-- `PROG.I` (R87). -/
theorem progI_spec (s : State) :
    progI s = (s.emit (.drive .current (BitVec.ofNat 16 (currentDuty s.params s.regs.cfgCset)))).withRegs { s.regs with
      dutyI := BitVec.ofNat 16 (currentDuty s.params s.regs.cfgCset)
      applCset := s.regs.cfgCset
      dutyOvf := s.regs.dutyOvf || decide (65536 ≤ currentDuty s.params s.regs.cfgCset) } := by
  simp only [progI, noteDuty_spec, duty16_eq]
  rfl

/-- `SP.DISABLE` (R90). -/
theorem spDisable_spec (s : State) :
    spDisable s = (((s.emit (.outEn false)).emit (.drive .voltage 0)).emit (.drive .current 0)).withRegs { s.regs with
      outOn := false, dutyV := 0, dutyI := 0, applVset := 0, applCset := 0 } := rfl

/-- SPC runs exactly one of its four micro-operations (R88). -/
theorem spcStep_cases (s : State) :
    (s.regs.cfgEn = true ∧ s.regs.outOn = false ∧ spcStep s = spEnable s) ∨
    (s.regs.cfgEn = false ∧ s.regs.outOn = true ∧ spcStep s = spDisable s) ∨
    (s.regs.cfgEn = true ∧ s.regs.outOn = true ∧ spcStep s = spReconcile s) ∨
    (s.regs.cfgEn = false ∧ s.regs.outOn = false ∧ spcStep s = s) := by
  cases hc : s.regs.cfgEn <;> cases ho : s.regs.outOn <;> simp [spcStep, spHold, hc, ho]

end Sys2Proof.Machine
end

