-- ==== Sys2Proof/Laws/Step.lean ====
section
/-! SUPPORT. What a step can do, once: `step_cases` for the step, `exec_cases` for the operations that a word can ask for. -/

namespace Sys2Proof.Machine

open Sys2Proof.Safety

/-- What a step does with the input presented to it. -/
theorem step_presentInput_reset (s : State) : step (s.presentInput .reset) = .next s.applyReset := rfl

theorem step_present_instr {s : State} {w : OpWord} {i : Instr} (h : decode w = .instr i) :
    step (s.present w) = exec i s := by
  simp only [step, State.presented, State.present_pending, h, State.present_taken]

theorem step_present_malformed {s : State} {w : OpWord} {why : Malformed} (h : decode w = .malformed why) :
    step (s.present w) = .next s.rejectWord := by
  simp only [step, State.presented, State.present_pending, h, State.present_taken]

/-- A step runs an operation, or rejects a malformed word, or resets. -/
theorem step_cases (s : State) :
    (∃ i, s.presented = .operation i ∧ step s = exec i s.taken) ∨
    (step s = .next s.taken.rejectWord) ∨
    (step s = .next s.taken.applyReset) := by
  unfold step
  cases h : s.presented with
  | operation i => exact .inl ⟨i, rfl, rfl⟩
  | malformed why => exact .inr (.inl rfl)
  | reset => exact .inr (.inr rfl)

/-- What a word decodes to is IDLE, the RD or the WR of an address, or a TICK (R42, R54). -/
theorem decode_cases {w : OpWord} {i : Instr} (h : decode w = .instr i) :
    (w.kind = 0b00#2 ∧ i = .idle) ∨ (w.kind = 0b01#2 ∧ i = decodeRd w.addr) ∨
    (w.kind = 0b10#2 ∧ i = decodeWr w.addr w.data) ∨
    (w.kind = 0b11#2 ∧ i = .tick w.rdy w.cc w.aux w.raw) := by
  have four : ∀ k : BitVec 2, k = 0b00#2 ∨ k = 0b01#2 ∨ k = 0b10#2 ∨ k = 0b11#2 := by decide
  unfold decode at h
  rcases four w.kind with hk | hk | hk | hk <;> simp only [hk] at h ⊢ <;> simp at h ⊢ <;> split at h <;> simp_all

end Sys2Proof.Machine
end

