-- ==== Sys2Proof/Laws/Tick.lean ====
section
/-! SUPPORT. What a TICK can do, once: each unit's step as new registers and the events it appends (`State.doing`), every case
listed, and from them the frame of each unit and the events of a whole tick. -/

namespace Sys2Proof.Machine

open Sys2Proof.Safety

/-- `s` with the registers `r` and the events `es` appended: the shape of everything that SEQ and SPC do. -/
def State.doing (s : State) (r : Regs) (es : List Event) : State :=
  { s with regs := r, resp := { s.resp with events := s.resp.events ++ es } }

@[simp] theorem State.doing_regs (s : State) (r : Regs) (es : List Event) : (s.doing r es).regs = r := rfl
@[simp] theorem State.doing_params (s : State) (r : Regs) (es : List Event) : (s.doing r es).params = s.params := rfl
@[simp] theorem State.doing_pending (s : State) (r : Regs) (es : List Event) : (s.doing r es).pending = s.pending := rfl
@[simp] theorem State.doing_value (s : State) (r : Regs) (es : List Event) : (s.doing r es).value = s.value := rfl
@[simp] theorem State.doing_resp (s : State) (r : Regs) (es : List Event) :
    (s.doing r es).resp = { s.resp with events := s.resp.events ++ es } := rfl

@[simp] theorem State.doing_doing (s : State) (r q : Regs) (es fs : List Event) :
    (s.doing r es).doing q fs = s.doing q (es ++ fs) := by
  simp [State.doing]

theorem State.doing_nil (s : State) : s.doing s.regs [] = s := by
  simp [State.doing]

theorem State.withRegs_eq_doing (s : State) (r : Regs) : s.withRegs r = s.doing r [] := by
  simp [State.doing, State.withRegs]

theorem State.emit_eq_doing (s : State) (e : Event) : s.emit e = s.doing s.regs [e] := rfl

/-! ### SEQ -/

/-- What the ADC micro-operation of a tick can do (R67 to R70, R73 to R77): start, wait, or complete one of the three
channels. -/
def AdcDoes (rdy : Bool) (raw : Sample) (r q : Regs) (es : List Event) : Prop :=
  (r.busy = false ∧ q = { r with busy := true } ∧ es = [.adcStart r.ch]) ∨
  (r.busy = true ∧ rdy = false ∧ q = r ∧ es = []) ∨
  (r.busy = true ∧ rdy = true ∧ r.ch = .current ∧ es = [.adcRead, .adcStart .voltageOut] ∧
    q = { r with
      rawCout := raw
      acc := offsetBy raw r.calCoutA r.calCoutB
      cout := offsetBy raw r.calCoutA r.calCoutB
      calOvf := r.calOvf || decide (65536 ≤ secondProduct raw r.calCoutA)
      calUnf := r.calUnf || decide (scaled raw r.calCoutA < r.calCoutB.toNat)
      ch := .voltageOut }) ∨
  (r.busy = true ∧ rdy = true ∧ r.ch = .voltageOut ∧ es = [.adcRead, .adcStart .voltageIn] ∧
    q = { r with
      rawVout := raw
      acc := offsetBy raw r.calVoutA r.calVoutB
      vout := offsetBy raw r.calVoutA r.calVoutB
      calOvf := r.calOvf || decide (65536 ≤ secondProduct raw r.calVoutA)
      calUnf := r.calUnf || decide (scaled raw r.calVoutA < r.calVoutB.toNat)
      ch := .voltageIn }) ∨
  (r.busy = true ∧ rdy = true ∧ r.ch = .voltageIn ∧
    (∃ d3 d2 d1 d0, es = [.adcRead, .display d3 d2 d1 d0, .adcStart .current]) ∧
    q = { r with
      rawVin := raw
      acc := BitVec.ofNat 16 (secondProduct raw r.calVin)
      vin := BitVec.ofNat 16 (secondProduct raw r.calVin)
      calOvf := r.calOvf || decide (65536 ≤ secondProduct raw r.calVin)
      ch := .current })

theorem adcStep_spec (rdy : Bool) (raw : Sample) (s : State) :
    ∃ q es, AdcDoes rdy raw s.regs q es ∧ adcStep rdy raw s = s.doing q es := by
  rcases adcStep_cases rdy raw s with ⟨hb, e⟩ | ⟨hb, hr, e⟩ | ⟨hb, hr, e⟩
  · exact ⟨_, _, .inl ⟨hb, rfl, rfl⟩, e⟩
  · obtain ⟨a, b, c, d, hd, -⟩ := disp_spec raw
    cases hc : s.regs.ch
    · refine ⟨_, _, .inr (.inr (.inl ⟨hb, hr, hc, rfl, rfl⟩)), ?_⟩
      rw [e]
      simp [adcDone, calibrate, hc, calI_spec, advance_spec, State.withRegs_eq_doing, State.emit_eq_doing, Channel.next]
      rfl
    · refine ⟨_, _, .inr (.inr (.inr (.inl ⟨hb, hr, hc, rfl, rfl⟩))), ?_⟩
      rw [e]
      simp [adcDone, calibrate, hc, calVo_spec, advance_spec, State.withRegs_eq_doing, State.emit_eq_doing, Channel.next]
      rfl
    · refine ⟨_, _, .inr (.inr (.inr (.inr ⟨hb, hr, hc, ⟨a, b, c, d, rfl⟩, rfl⟩))), ?_⟩
      rw [e]
      simp [adcDone, calibrate, hc, calVi_spec, hd, advance_spec, State.withRegs_eq_doing, State.emit_eq_doing, Channel.next]
      rfl
  · exact ⟨_, _, .inr (.inl ⟨hb, hr, rfl, rfl⟩), by rw [e, State.doing_nil]⟩

/-- The event of a change of the secondary sense input (R80). -/
def diagEvents (aux : Bool) (r : Regs) : List Event := if aux = r.auxLast then [] else [.diagAux aux]

theorem diag_eq_doing (aux : Bool) (s : State) :
    diag aux s = s.doing { s.regs with auxLast := aux } (diagEvents aux s.regs) := by
  by_cases h : aux = s.regs.auxLast
  · subst h; simp [diag, diagEvents, State.doing]
  · simp [diag, diagEvents, h, State.withRegs_eq_doing, State.emit_eq_doing]

/-- No ADC micro-operation writes `AUX_LAST`. -/
theorem AdcDoes.auxLast {rdy : Bool} {raw : Sample} {r q : Regs} {es : List Event} (h : AdcDoes rdy raw r q es) :
    q.auxLast = r.auxLast := by
  rcases h with ⟨-, rfl, -⟩ | ⟨-, -, rfl, -⟩ | ⟨-, -, -, -, rfl⟩ | ⟨-, -, -, -, rfl⟩ | ⟨-, -, -, -, rfl⟩ <;> rfl

/-- What SEQ does in a tick (R67). -/
theorem seqStep_spec (rdy cc aux : Bool) (raw : Sample) (s : State) :
    ∃ q es, AdcDoes rdy raw s.regs q es ∧
      seqStep rdy raw cc aux s =
        s.doing { q with ccActive := cc, auxLast := aux } (es ++ diagEvents aux s.regs) := by
  obtain ⟨q, es, h, e⟩ := adcStep_spec rdy raw s
  refine ⟨q, es, h, ?_⟩
  simp [seqStep, e, sense, State.withRegs_eq_doing, diag_eq_doing, diagEvents, h.auxLast]
  rfl

/-! ### SPC -/

/-- What SPC can do in a tick with the parameters `p` (R88 to R93): hold, enable, disable, or reconcile in four ways. -/
def SpcDoes (p : Config.Params) (r q : Regs) (es : List Event) : Prop :=
  (r.cfgEn = false ∧ r.outOn = false ∧ q = r ∧ es = []) ∨
  (r.cfgEn = true ∧ r.outOn = false ∧
    q = { r with
      dutyV := BitVec.ofNat 16 (voltageDuty p r.cfgVset)
      applVset := r.cfgVset
      dutyI := BitVec.ofNat 16 (currentDuty p r.cfgCset)
      applCset := r.cfgCset
      outOn := true
      dutyOvf := r.dutyOvf || decide (65536 ≤ voltageDuty p r.cfgVset) || decide (65536 ≤ currentDuty p r.cfgCset) } ∧
    es = [.drive .voltage (BitVec.ofNat 16 (voltageDuty p r.cfgVset)),
      .drive .current (BitVec.ofNat 16 (currentDuty p r.cfgCset)), .outEn true]) ∨
  (r.cfgEn = false ∧ r.outOn = true ∧
    q = { r with outOn := false, dutyV := 0, dutyI := 0, applVset := 0, applCset := 0 } ∧
    es = [.outEn false, .drive .voltage 0, .drive .current 0]) ∨
  (r.cfgEn = true ∧ r.outOn = true ∧ r.cfgVset = r.applVset ∧ r.cfgCset = r.applCset ∧ q = r ∧ es = []) ∨
  (r.cfgEn = true ∧ r.outOn = true ∧ r.cfgVset ≠ r.applVset ∧ r.cfgCset = r.applCset ∧
    q = { r with
      dutyV := BitVec.ofNat 16 (voltageDuty p r.cfgVset)
      applVset := r.cfgVset
      dutyOvf := r.dutyOvf || decide (65536 ≤ voltageDuty p r.cfgVset) } ∧
    es = [.drive .voltage (BitVec.ofNat 16 (voltageDuty p r.cfgVset))]) ∨
  (r.cfgEn = true ∧ r.outOn = true ∧ r.cfgVset = r.applVset ∧ r.cfgCset ≠ r.applCset ∧
    q = { r with
      dutyI := BitVec.ofNat 16 (currentDuty p r.cfgCset)
      applCset := r.cfgCset
      dutyOvf := r.dutyOvf || decide (65536 ≤ currentDuty p r.cfgCset) } ∧
    es = [.drive .current (BitVec.ofNat 16 (currentDuty p r.cfgCset))]) ∨
  (r.cfgEn = true ∧ r.outOn = true ∧ r.cfgVset ≠ r.applVset ∧ r.cfgCset ≠ r.applCset ∧
    q = { r with
      dutyV := BitVec.ofNat 16 (voltageDuty p r.cfgVset)
      applVset := r.cfgVset
      dutyI := BitVec.ofNat 16 (currentDuty p r.cfgCset)
      applCset := r.cfgCset
      dutyOvf := r.dutyOvf || decide (65536 ≤ voltageDuty p r.cfgVset) || decide (65536 ≤ currentDuty p r.cfgCset) } ∧
    es = [.drive .voltage (BitVec.ofNat 16 (voltageDuty p r.cfgVset)),
      .drive .current (BitVec.ofNat 16 (currentDuty p r.cfgCset))])

theorem progV_eq_doing (s : State) :
    progV s = s.doing { s.regs with
      dutyV := BitVec.ofNat 16 (voltageDuty s.params s.regs.cfgVset)
      applVset := s.regs.cfgVset
      dutyOvf := s.regs.dutyOvf || decide (65536 ≤ voltageDuty s.params s.regs.cfgVset) }
      [.drive .voltage (BitVec.ofNat 16 (voltageDuty s.params s.regs.cfgVset))] := by
  rw [progV_spec, State.emit_eq_doing, State.withRegs_eq_doing, State.doing_doing]; rfl

theorem progI_eq_doing (s : State) :
    progI s = s.doing { s.regs with
      dutyI := BitVec.ofNat 16 (currentDuty s.params s.regs.cfgCset)
      applCset := s.regs.cfgCset
      dutyOvf := s.regs.dutyOvf || decide (65536 ≤ currentDuty s.params s.regs.cfgCset) }
      [.drive .current (BitVec.ofNat 16 (currentDuty s.params s.regs.cfgCset))] := by
  rw [progI_spec, State.emit_eq_doing, State.withRegs_eq_doing, State.doing_doing]; rfl

/-- What SPC does in a tick (R88). -/
theorem spcStep_spec (s : State) : ∃ q es, SpcDoes s.params s.regs q es ∧ spcStep s = s.doing q es := by
  rcases spcStep_cases s with ⟨hc, ho, e⟩ | ⟨hc, ho, e⟩ | ⟨hc, ho, e⟩ | ⟨hc, ho, e⟩
  · refine ⟨_, _, .inr (.inl ⟨hc, ho, rfl, rfl⟩), ?_⟩
    rw [e]
    simp [spEnable, progV_eq_doing, progI_eq_doing, State.withRegs_eq_doing, State.emit_eq_doing]
    rfl
  · refine ⟨_, _, .inr (.inr (.inl ⟨hc, ho, rfl, rfl⟩)), ?_⟩
    rw [e]
    simp [spDisable_spec, State.withRegs_eq_doing, State.emit_eq_doing]
  · by_cases hv : s.regs.cfgVset = s.regs.applVset <;> by_cases hi : s.regs.cfgCset = s.regs.applCset
    · refine ⟨_, _, .inr (.inr (.inr (.inl ⟨hc, ho, hv, hi, rfl, rfl⟩))), ?_⟩
      rw [e]
      simp [spReconcile, reconcileV, reconcileI, hv, hi, State.doing_nil]
    · refine ⟨_, _, .inr (.inr (.inr (.inr (.inr (.inl ⟨hc, ho, hv, hi, rfl, rfl⟩))))), ?_⟩
      rw [e]
      simp [spReconcile, reconcileV, reconcileI, hv, hi, progI_eq_doing]
    · refine ⟨_, _, .inr (.inr (.inr (.inr (.inl ⟨hc, ho, hv, hi, rfl, rfl⟩)))), ?_⟩
      rw [e]
      simp [spReconcile, reconcileV, reconcileI, hv, hi, progV_eq_doing]
    · refine ⟨_, _, .inr (.inr (.inr (.inr (.inr (.inr ⟨hc, ho, hv, hi, rfl, rfl⟩))))), ?_⟩
      rw [e]
      simp [spReconcile, reconcileV, reconcileI, hv, hi, progV_eq_doing, progI_eq_doing]
      rfl
  · exact ⟨_, _, .inl ⟨hc, ho, rfl, rfl⟩, by rw [e, State.doing_nil]⟩

/-! ### Frames, flags and events of the two units -/

/-- SEQ leaves every register of the host and of SPC, and `DUTY_OVF` (R26). -/
theorem AdcDoes.frame {rdy : Bool} {raw : Sample} {r q : Regs} {es : List Event} (h : AdcDoes rdy raw r q es) :
    SameHostRegs r q ∧ SameSpcRegs r q ∧ q.dutyOvf = r.dutyOvf := by
  rcases h with ⟨-, rfl, -⟩ | ⟨-, -, rfl, -⟩ | ⟨-, -, -, -, rfl⟩ | ⟨-, -, -, -, rfl⟩ | ⟨-, -, -, -, rfl⟩ <;>
    simp [SameHostRegs, SameSpcRegs]

/-- SEQ clears no flag (R24). -/
theorem AdcDoes.flagsKept {rdy : Bool} {raw : Sample} {r q : Regs} {es : List Event} (h : AdcDoes rdy raw r q es) :
    FlagsKept r q := by
  rcases h with ⟨-, rfl, -⟩ | ⟨-, -, rfl, -⟩ | ⟨-, -, -, -, rfl⟩ | ⟨-, -, -, -, rfl⟩ | ⟨-, -, -, -, rfl⟩ <;>
    simp +contextual [FlagsKept]

/-- The forms that the ADC events of a tick take (R103). -/
theorem AdcDoes.events {rdy : Bool} {raw : Sample} {r q : Regs} {es : List Event} (h : AdcDoes rdy raw r q es) :
    es = [] ∨ (∃ c, es = [.adcStart c]) ∨ (∃ c, c ≠ .current ∧ es = [.adcRead, .adcStart c]) ∨
      (∃ d3 d2 d1 d0, es = [.adcRead, .display d3 d2 d1 d0, .adcStart .current]) := by
  rcases h with ⟨-, -, rfl⟩ | ⟨-, -, -, rfl⟩ | ⟨-, -, -, rfl, -⟩ | ⟨-, -, -, rfl, -⟩ | ⟨-, -, -, ⟨_, _, _, _, rfl⟩, -⟩ <;>
    simp

theorem AdcDoes.no_spc_event {rdy : Bool} {raw : Sample} {r q : Regs} {es : List Event} (h : AdcDoes rdy raw r q es) :
    es.filter isSpc = [] := by
  rcases h.events with rfl | ⟨_, rfl⟩ | ⟨_, -, rfl⟩ | ⟨_, _, _, _, rfl⟩ <;> rfl

/-- SPC leaves every register of the host and of SEQ, and the calibration flags (R26). -/
theorem SpcDoes.frame {p : Config.Params} {r q : Regs} {es : List Event} (h : SpcDoes p r q es) :
    SameHostRegs r q ∧ SameSeqRegs r q ∧ q.calOvf = r.calOvf ∧ q.calUnf = r.calUnf := by
  rcases h with ⟨-, -, rfl, -⟩ | ⟨-, -, rfl, -⟩ | ⟨-, -, rfl, -⟩ | ⟨-, -, -, -, rfl, -⟩ | ⟨-, -, -, -, rfl, -⟩ |
    ⟨-, -, -, -, rfl, -⟩ | ⟨-, -, -, -, rfl, -⟩ <;> simp [SameHostRegs, SameSeqRegs]

/-- SPC clears no flag (R24). -/
theorem SpcDoes.flagsKept {p : Config.Params} {r q : Regs} {es : List Event} (h : SpcDoes p r q es) : FlagsKept r q := by
  rcases h with ⟨-, -, rfl, -⟩ | ⟨-, -, rfl, -⟩ | ⟨-, -, rfl, -⟩ | ⟨-, -, -, -, rfl, -⟩ | ⟨-, -, -, -, rfl, -⟩ |
    ⟨-, -, -, -, rfl, -⟩ | ⟨-, -, -, -, rfl, -⟩ <;> simp +contextual [FlagsKept]

/-- The forms that the SPC events of a tick take (R93, R103). -/
theorem SpcDoes.events {p : Config.Params} {r q : Regs} {es : List Event} (h : SpcDoes p r q es) :
    es = [] ∨ (∃ v, es = [.drive .voltage v]) ∨ (∃ i, es = [.drive .current i]) ∨
      (∃ v i, es = [.drive .voltage v, .drive .current i]) ∨
      (∃ v i, es = [.drive .voltage v, .drive .current i, .outEn true]) ∨
      es = [.outEn false, .drive .voltage 0, .drive .current 0] := by
  rcases h with ⟨-, -, -, rfl⟩ | ⟨-, -, -, rfl⟩ | ⟨-, -, -, rfl⟩ | ⟨-, -, -, -, -, rfl⟩ | ⟨-, -, -, -, -, rfl⟩ |
    ⟨-, -, -, -, -, rfl⟩ | ⟨-, -, -, -, -, rfl⟩ <;> simp

theorem SpcDoes.only_spc_events {p : Config.Params} {r q : Regs} {es : List Event} (h : SpcDoes p r q es) :
    es.filter isSpc = es ∧ es.filter isAdc = [] ∧ es.filter isDisplay = [] := by
  rcases h.events with rfl | ⟨_, rfl⟩ | ⟨_, rfl⟩ | ⟨_, _, rfl⟩ | ⟨_, _, rfl⟩ | rfl <;> exact ⟨rfl, rfl, rfl⟩

theorem diagEvents_cases (aux : Bool) (r : Regs) : diagEvents aux r = [] ∨ diagEvents aux r = [.diagAux aux] := by
  unfold diagEvents; split <;> simp

theorem diagEvents_filters (aux : Bool) (r : Regs) :
    (diagEvents aux r).filter isSpc = [] ∧ (diagEvents aux r).filter isAdc = [] ∧
    (diagEvents aux r).filter isDisplay = [] := by
  rcases diagEvents_cases aux r with h | h <;> rw [h] <;> exact ⟨rfl, rfl, rfl⟩

/-- What SPC does is a function of the parameters and the registers: the events emitted so far do not matter. -/
theorem SpcDoes.unique {p : Config.Params} {r q q' : Regs} {es es' : List Event} (h : SpcDoes p r q es)
    (h' : SpcDoes p r q' es') : q = q' ∧ es = es' := by
  rcases h with ⟨a, b, rfl, rfl⟩ | ⟨a, b, rfl, rfl⟩ | ⟨a, b, rfl, rfl⟩ | ⟨a, b, c, d, rfl, rfl⟩ | ⟨a, b, c, d, rfl, rfl⟩ |
    ⟨a, b, c, d, rfl, rfl⟩ | ⟨a, b, c, d, rfl, rfl⟩ <;> simpa [SpcDoes, a, b, *, eq_comm] using h'

/-- SPC appends to whatever was emitted before what it would emit at the start of an operation. -/
theorem spcStep_start (s : State) : spcStep s = s.doing (spcStep s.start).regs (spcStep s.start).resp.events := by
  obtain ⟨q, es, h, e⟩ := spcStep_spec s
  obtain ⟨q', es', h', e'⟩ := spcStep_spec s.start
  obtain ⟨rfl, rfl⟩ := h.unique h'
  simp [e, e']

/-! ### A whole tick -/

/-- What a TICK does (R102): SEQ's registers and events, then SPC's. -/
theorem exec_tick_spec (rdy cc aux : Bool) (raw : Sample) (s : State) :
    ∃ q r adc spc, AdcDoes rdy raw s.regs q adc ∧
      SpcDoes s.params { q with ccActive := cc, auxLast := aux } r spc ∧
      exec (.tick rdy cc aux raw) s = .next (s.start.doing r (adc ++ diagEvents aux s.regs ++ spc)) := by
  obtain ⟨q, adc, h, e⟩ := seqStep_spec rdy cc aux raw s.start
  obtain ⟨r, spc, h', e'⟩ := spcStep_spec (seqStep rdy raw cc aux s.start)
  rw [e] at h' e'
  refine ⟨q, r, adc, spc, h, h', ?_⟩
  simp only [exec, execTick, e, e', State.doing_doing]
  rfl

/-! ### Any operation word -/

/-- What a host write does to the registers it may write (R99 to R101): nothing of SEQ or SPC, and no flag is set. -/
theorem regWrite_frame (x : Reg) (d : Word) (r : Regs) :
    SameSeqRegs r (regWrite x d r) ∧ SameSpcRegs r (regWrite x d r) ∧ FlagsKept (regWrite x d r) r := by
  cases x <;> simp +contextual [regWrite, clearFlags, SameSeqRegs, SameSpcRegs, FlagsKept]

/-- Everything that presenting a word can do (R42, R97 to R102, R109): it changes no register and emits nothing (IDLE, RD, a
refused access, a malformed word), or it is a host write, or it is a TICK. -/
theorem step_present_cases (s : State) (w : OpWord) :
    ∃ t, step (s.present w) = .next t ∧ t.params = s.params ∧ t.pending = s.pending ∧
      ((w.kind ≠ 0b11#2 ∧ t.regs = s.regs ∧ t.resp.events = [] ∧ (t.resp.ecode ≠ .ok → t.resp.rdata = 0)) ∨
       (w.kind = 0b10#2 ∧ ∃ x, decode w = .instr (decodeWr w.addr w.data) ∧ regAt w.addr = some x ∧ x.access ≠ .ro ∧
          t.regs = regWrite x w.data s.regs ∧ t.resp = Response.empty) ∨
       (w.kind = 0b11#2 ∧ t.regs = s.regs ∧ t.resp = ⟨0, .malformed, []⟩) ∨
       (w.kind = 0b11#2 ∧ decode w = .instr (.tick w.rdy w.cc w.aux w.raw) ∧
          exec (.tick w.rdy w.cc w.aux w.raw) s = .next t)) := by
  cases h : decode w with
  | malformed why =>
    refine ⟨_, step_present_malformed h, rfl, rfl, ?_⟩
    by_cases hk : w.kind = 0b11#2
    · exact .inr (.inr (.inl ⟨hk, rfl, rfl⟩))
    · exact .inl ⟨hk, rfl, rfl, fun _ => rfl⟩
  | instr i =>
    have e := step_present_instr (s := s) h
    rcases decode_cases h with ⟨hk, rfl⟩ | ⟨hk, rfl⟩ | ⟨hk, rfl⟩ | ⟨hk, rfl⟩
    · exact ⟨_, e, rfl, rfl, .inl ⟨by rw [hk]; decide, rfl, rfl, fun _ => rfl⟩⟩
    · rw [exec_decodeRd] at e
      have hk' : w.kind ≠ 0b11#2 := by rw [hk]; decide
      cases hr : regAt w.addr with
      | none =>
        rw [hr] at e
        exact ⟨_, e, rfl, rfl, .inl ⟨hk', rfl, rfl, fun _ => rfl⟩⟩
      | some x =>
        rw [hr] at e
        exact ⟨_, e, rfl, rfl, .inl ⟨hk', rfl, rfl, fun hn => absurd rfl hn⟩⟩
    · rw [exec_decodeWr] at e
      have hk' : w.kind ≠ 0b11#2 := by rw [hk]; decide
      cases hr : regAt w.addr with
      | none =>
        rw [hr] at e
        exact ⟨_, e, rfl, rfl, .inl ⟨hk', rfl, rfl, fun _ => rfl⟩⟩
      | some x =>
        rw [hr] at e
        cases ha : x.access with
        | ro =>
          have e' : s.hostWrite x w.data = s.start.raiseBusError .readOnly := by simp only [State.hostWrite, ha]
          exact ⟨_, e.trans (congrArg Host.Outcome.next e'), rfl, rfl, .inl ⟨hk', rfl, rfl, fun _ => rfl⟩⟩
        | rw =>
          have e' : s.hostWrite x w.data = s.start.withRegs (regWrite x w.data s.regs) := by simp only [State.hostWrite, ha]
          exact ⟨_, e.trans (congrArg Host.Outcome.next e'), rfl, rfl, .inr (.inl ⟨hk, x, rfl, rfl, by rw [ha]; decide, rfl, rfl⟩)⟩
        | w1c =>
          have e' : s.hostWrite x w.data = s.start.withRegs (regWrite x w.data s.regs) := by simp only [State.hostWrite, ha]
          exact ⟨_, e.trans (congrArg Host.Outcome.next e'), rfl, rfl, .inr (.inl ⟨hk, x, rfl, rfl, by rw [ha]; decide, rfl, rfl⟩)⟩
    · obtain ⟨q, r, adc, spc, -, -, h2⟩ := exec_tick_spec w.rdy w.cc w.aux w.raw s
      exact ⟨_, e.trans h2, rfl, rfl, .inr (.inr (.inr ⟨hk, rfl, h2⟩))⟩

/-- What a word that is no TICK does to the registers: a write where the host may write, else nothing. -/
def hostEffect (w : OpWord) (r : Regs) : Regs :=
  match decode w with
  | .malformed _ => r
  | .instr _ =>
    if w.kind = 0b10#2 then
      match regAt w.addr with
      | some x => if x.access = .ro then r else regWrite x w.data r
      | none => r
    else r

/-- A word that is no TICK writes as the host may, as a function of the word and the registers alone, and emits nothing. -/
theorem step_host (s : State) {w : OpWord} (hw : w.kind ≠ 0b11#2) :
    ∃ t, step (s.present w) = .next t ∧ t.params = s.params ∧ t.pending = s.pending ∧ t.resp.events = [] ∧
      t.regs = hostEffect w s.regs := by
  unfold hostEffect
  cases h : decode w with
  | malformed why => exact ⟨_, step_present_malformed h, rfl, rfl, rfl, rfl⟩
  | instr i =>
    have e := step_present_instr (s := s) h
    rcases decode_cases h with ⟨hk, rfl⟩ | ⟨hk, rfl⟩ | ⟨hk, rfl⟩ | ⟨hk, rfl⟩
    · exact ⟨_, e, rfl, rfl, rfl, by simp [hk]⟩
    · rw [exec_decodeRd] at e
      refine ⟨_, e, ?_⟩
      cases regAt w.addr <;> exact ⟨rfl, rfl, rfl, by simp [hk]; rfl⟩
    · rw [exec_decodeWr] at e
      refine ⟨_, e, ?_⟩
      cases regAt w.addr with
      | none => exact ⟨rfl, rfl, rfl, by simp [hk]; rfl⟩
      | some x => cases ha : x.access <;> simp [State.hostWrite, ha, hk, State.raiseBusError]
    · exact absurd hk hw

end Sys2Proof.Machine
end

