-- ==== Sys2Proof/Laws/Run.lean ====
section
/-! SUPPORT. Runs, one word at a time: the final state, the responses, the trace and the channels read of `w :: ws` from those
of `ws`. -/

namespace Sys2Proof.Machine

open Sys2Proof.Safety

@[simp] theorem finalState_nil (s : State) : finalState s [] = s := rfl
@[simp] theorem responses_nil (s : State) : responses s [] = [] := rfl
@[simp] theorem trace_nil (s : State) : trace s [] = [] := rfl
@[simp] theorem readChannels_nil (s : State) : readChannels s [] = [] := rfl

/-- The first word of a run (R106). -/
theorem runFrom_word {s t : State} {w : OpWord} (h : step (s.present w) = .next t) (is : List Input) :
    runFrom s (.word w :: is) = ((runFrom t is).1, t.resp :: (runFrom t is).2) := by
  have h' : step (s.presentInput (.word w)) = .next t := h
  simp only [runFrom, h']

theorem finalState_cons {s t : State} {w : OpWord} (h : step (s.present w) = .next t) (ws : List OpWord) :
    finalState s (w :: ws) = finalState t ws := by
  simp only [finalState, words, List.map_cons, runFrom_word h]

theorem responses_cons {s t : State} {w : OpWord} (h : step (s.present w) = .next t) (ws : List OpWord) :
    responses s (w :: ws) = t.resp :: responses t ws := by
  simp only [responses, words, List.map_cons, runFrom_word h]

theorem trace_cons {s t : State} {w : OpWord} (h : step (s.present w) = .next t) (ws : List OpWord) :
    trace s (w :: ws) = t.resp.events ++ trace t ws := by
  simp only [trace, responses_cons h, List.flatMap_cons]

theorem readChannels_cons {s t : State} {w : OpWord} (h : step (s.present w) = .next t) (ws : List OpWord) :
    readChannels s (w :: ws) = (if Event.adcRead ∈ t.resp.events then [s.regs.ch] else []) ++ readChannels t ws := by
  simp only [readChannels, h]

end Sys2Proof.Machine
end

