-- ==== Sys2Proof/Machine/Text.lean ====
section
/-! DEFINITION. The textual notation of operations and pseudo-operations (spec/30_encoding.md R56, R57) and the register names of
spec/20_memory.md R32. No meaning uses it. Where R56 leaves the form of a line open, log 20 says what is read. -/

namespace Sys2Proof.Machine.Text

/-! ### Numbers (spec/00_scope.md section 7) -/

/-- The value of one digit; either case of a hexadecimal letter. -/
def digit (c : Char) : Option Nat :=
  if '0' ≤ c ∧ c ≤ '9' then some (c.toNat - 48)
  else if 'A' ≤ c ∧ c ≤ 'F' then some (c.toNat - 55)
  else if 'a' ≤ c ∧ c ≤ 'f' then some (c.toNat - 87)
  else none

/-- The digits of a number, most significant first, on top of what has been read. -/
def digits (base : Nat) (read : Nat) : List Char → Option Nat
  | [] => some read
  | c :: cs =>
    match digit c with
    | some d => if d < base then digits base (read * base + d) cs else none
    | none => none

/-- A number: `0x` hexadecimal, `0b` binary, everything else decimal. -/
def number (s : List Char) : Option Nat :=
  match s with
  | [] => none
  | ['0', 'x'] => none
  | ['0', 'b'] => none
  | '0' :: 'x' :: cs => digits 16 0 cs
  | '0' :: 'b' :: cs => digits 2 0 cs
  | cs => digits 10 0 cs

/-- A number below `bound`. -/
def numberBelow (bound : Nat) (s : String) : Option Nat :=
  match number s.toList with
  | some n => if n < bound then some n else none
  | none => none

/-! ### Words of a line -/

/-- The line without its comment: `;` starts one (R56). -/
def stripComment : List Char → List Char
  | [] => []
  | c :: cs => if c = ';' then [] else c :: stripComment cs

/-- A finished word (read so far, last letter first) before the words `rest`. -/
def flush (word : List Char) (rest : List String) : List String :=
  if word.isEmpty = true then rest else String.ofList word.reverse :: rest

/-- The words of a line: separated by blanks, each comma a word of its own. -/
def wordsOf (word : List Char) : List Char → List String
  | [] => flush word []
  | c :: cs =>
    if c = ' ' ∨ c = '\t' then flush word (wordsOf [] cs)
    else if c = ',' then flush word ("," :: wordsOf [] cs)
    else wordsOf (c :: word) cs

/-! ### Register names -/

/-- The names of the mapped addresses (R32). -/
def regNames : List (String × Addr) :=
  [("CFG_OUTPUT", 0x00#5), ("CFG_VSET", 0x01#5), ("CFG_CSET", 0x02#5), ("CAL_VIN", 0x04#5), ("CAL_VOUT_A", 0x05#5),
   ("CAL_VOUT_B", 0x06#5), ("CAL_COUT_A", 0x07#5), ("CAL_COUT_B", 0x08#5), ("MUL_X", 0x0C#5), ("MUL_Y", 0x0D#5),
   ("MUL_P", 0x0E#5), ("MUL_PH", 0x0F#5), ("RAW_COUT", 0x10#5), ("RAW_VOUT", 0x11#5), ("RAW_VIN", 0x12#5),
   ("COUT", 0x14#5), ("VOUT", 0x15#5), ("VIN", 0x16#5), ("ACC", 0x17#5), ("SEQ_STAT", 0x18#5), ("SPC_STAT", 0x19#5),
   ("DUTY_V", 0x1A#5), ("DUTY_I", 0x1B#5), ("APPL_VSET", 0x1C#5), ("APPL_CSET", 0x1D#5), ("STATUS", 0x1E#5)]

/-- `<reg>`: a register name or a numeric address `0x00` to `0x1F` (R56). -/
def register (s : String) : Option Addr :=
  match regNames.lookup s with
  | some a => some a
  | none => (numberBelow 32 s).map (BitVec.ofNat 5)

/-- `<data>`: a 16-bit number (R56). -/
def dataWord (s : String) : Option Word := (numberBelow 65536 s).map (BitVec.ofNat 16)

/-! ### Lines -/

/-- What is left of `s` after the prefix `p`. -/
def afterPrefix : List Char → List Char → Option (List Char)
  | [], s => some s
  | _ :: _, [] => none
  | c :: p, d :: s => if c = d then afterPrefix p s else none

/-- An optional argument of TICK, 0 where it is omitted, with the words after it (R56). -/
def argument (key : String) (bound : Nat) (args : List String) : Option (Nat × List String) :=
  match args with
  | [] => some (0, [])
  | a :: rest =>
    match afterPrefix key.toList a.toList with
    | none => some (0, args)
    | some v => (numberBelow bound (String.ofList v)).map fun n => (n, rest)

/-- The arguments of TICK, in the order of R56, and nothing after them. -/
def tickArguments (args : List String) : Option Instr :=
  (argument "rdy=" 2 args).bind fun (rdy, args) =>
  (argument "raw=" 1024 args).bind fun (raw, args) =>
  (argument "cc=" 2 args).bind fun (cc, args) =>
  (argument "aux=" 2 args).bind fun (aux, args) =>
    if args.isEmpty = true then some (.tick (rdy == 1) (cc == 1) (aux == 1) (BitVec.ofNat 10 raw)) else none

/-- The operations that one line of text stands for: one for an operation (R56), the expansion for a pseudo-operation (R57),
none for a blank line; `none` where the text is neither. -/
def line (s : String) : Option (List Instr) :=
  match wordsOf [] (stripComment s.toList) with
  | [] => some []
  | ["IDLE"] => some [.idle]
  | ["RD", r] => (register r).map fun a => [decodeRd a]
  | ["WR", r, ",", d] => (register r).bind fun a => (dataWord d).map fun d => [decodeWr a d]
  | "TICK" :: args => (tickArguments args).map fun i => [i]
  | ["MUL", x, ",", y] => (dataWord x).bind fun x => (dataWord y).map fun y => Pseudo.mul x y
  | ["LOADCAL", a, ",", b, ",", c, ",", d, ",", e] =>
    (dataWord a).bind fun a => (dataWord b).bind fun b => (dataWord c).bind fun c =>
    (dataWord d).bind fun d => (dataWord e).map fun e => Pseudo.loadCal a b c d e
  | ["SETV", v] => (dataWord v).map Pseudo.setV
  | ["SETI", i] => (dataWord i).map Pseudo.setI
  | ["OUTPUT", b] => (numberBelow 2 b).map fun n => Pseudo.output (n == 1)
  | ["CLRFLAGS"] => some Pseudo.clrFlags
  | ["TICKS", n] => (number n.toList).map Pseudo.ticks
  | _ => none

/-! ### Writing an operation as text -/

/-- One hexadecimal digit, upper case. -/
def hexDigit (n : Nat) : Char := if n % 16 < 10 then Char.ofNat (48 + n % 16) else Char.ofNat (55 + n % 16)

/-- The low `k` hexadecimal digits of `n`, after the letters `tail`. -/
def hexDigits (n : Nat) : Nat → List Char → List Char
  | 0, tail => tail
  | k + 1, tail => hexDigits (n / 16) k (hexDigit n :: tail)

/-- A number in `k` hexadecimal digits. -/
def hex (k n : Nat) : String := "0x" ++ String.ofList (hexDigits n k [])

/-- The decimal digits of a sample, without leading zeros. -/
def decimal (n : Nat) : String :=
  String.ofList (((if 1000 ≤ n then [hexDigit (n / 1000 % 10)] else []) ++ (if 100 ≤ n then [hexDigit (n / 100 % 10)] else []) ++
    (if 10 ≤ n then [hexDigit (n / 10 % 10)] else []) ++ [hexDigit (n % 10)]))

/-- A register as text: its name, or its address where it is unmapped. -/
def registerText (a : Addr) : String :=
  match regNames.find? (fun p => p.2 == a) with
  | some p => p.1
  | none => hex 2 a.toNat

/-- A one-bit argument as text. -/
def bitText (b : Bool) : String := if b = true then "1" else "0"

/-- An operation word as text; `none` where it is malformed. -/
def wordText (w : OpWord) : Option String :=
  match decode w with
  | .malformed _ => none
  | .instr _ => some (
    if w.kind = 0b00#2 then "IDLE"
    else if w.kind = 0b01#2 then "RD " ++ registerText w.addr
    else if w.kind = 0b10#2 then "WR " ++ registerText w.addr ++ ", " ++ hex 4 w.data.toNat
    else "TICK rdy=" ++ bitText w.rdy ++ " raw=" ++ decimal w.raw.toNat ++ " cc=" ++ bitText w.cc ++ " aux=" ++ bitText w.aux)

end Sys2Proof.Machine.Text
end

