-- ==== Sys2Proof/Tests/Slice0.lean ====
section
/-! SUPPORT. Tests: ill-formed terms, the decoding of written-out words, one step per instruction with expected values from
spec/95_test_vectors.md (named there as section and row) or worked out by hand from the rule named, and for every statement
with hypotheses a state and operands that meet them. -/

namespace Sys2Proof.Tests

open Sys2Proof Sys2Proof.Machine Sys2Proof.Safety

/-! ### Helpers -/

/-- A state with the registers `r`, everything else as after reset. -/
def withR (r : Regs) : State := { State.reset with regs := r }

/-- The registers after presenting the word `w`. -/
def regsAfter (r : Regs) (w : Nat) : Option Regs :=
  match step ((withR r).withFetchWord 24 w) with
  | .next t => some t.regs
  | .fault _ => none
  | .refused _ => none

/-- The response to the word `w`, as numbers (R49, R51). -/
def response (r : Regs) (w : Nat) : Option (Nat × Nat × List Nat) :=
  match step ((withR r).withFetchWord 24 w) with
  | .next t => some (t.resp.rdata.toNat, t.resp.ecode.code.toNat, t.resp.events.map fun e => e.word.toNat)
  | .fault _ => none
  | .refused _ => none

/-- The registers, the event words and the answer of an instruction run on its own. -/
def alone (r : Regs) (i : Instr) : Option (Regs × List Nat × Nat) :=
  match exec i (withR r) with
  | .next t => some (t.regs, t.resp.events.map fun e => e.word.toNat, t.value.toNat)
  | .fault _ => none
  | .refused _ => none

/-- A state in which a conversion of `c` is in flight. -/
def inFlight (c : Channel) : Regs := { Regs.reset with busy := true, ch := c }

/-- The calibration of program P2 of section 3. -/
def calibrated : Regs :=
  { Regs.reset with
    busy := true, calVin := 0x4000, calVoutA := 0x3400, calVoutB := 0x0100, calCoutA := 0x0500, calCoutB := 0x0040 }

/-- The operating point of the example of R89, applied. -/
def running : Regs :=
  { Regs.reset with
    cfgEn := true, cfgVset := 0x1400, cfgCset := 0x0400, outOn := true, dutyV := 0x0492, dutyI := 0x0AAA,
    applVset := 0x1400, applCset := 0x0400 }

/-! ### WellFormed: an ill-formed term for each check -/

theorem test_illformed_rd_unmapped : (Instr.rdUnmapped 0x00#5).wellFormed = false := by decide
theorem test_illformed_wr_unmapped : (Instr.wrUnmapped 0x1E#5 0#16).wellFormed = false := by decide
theorem test_illformed_duty : (Instr.duty 1#16 0#16 1#16).wellFormed = false := by decide
theorem test_wellformed : [Instr.rdUnmapped 0x13#5, .wrUnmapped 0x1F#5 0xFFFF#16, .duty 0 1 0, .spHold, .idle].all Instr.wellFormed = true := by
  decide

/-! ### Decoding: words written out from formats I, R, W and T (R44 to R47) and section 2.1 -/

/-- The rows of a table of words, each with the operation that it is. -/
def decodesTo (rows : List (Nat × Instr)) : Bool := rows.all fun p => decodeTableWord 24 p.1 == some p.2

theorem test_decode_idle_tick : decodesTo
    [(0b000000000000000000000000, .idle), (0b110000000001100001100100, .tick true true false 100#10),
     (0xC016E9, .tick true false true 745#10), (0xC01FFF, .tick true true true 1023#10),
     (0xC00000, .tick false false false 0#10)] = true := by decide

theorem test_decode_rd_low : decodesTo
    [(0b010000000000000000000000, .rdCfgOutput), (0x410000, .rdCfgVset), (0x420000, .rdCfgCset), (0x440000, .rdCalVin),
     (0x450000, .rdCalVoutA), (0x460000, .rdCalVoutB), (0x470000, .rdCalCoutA), (0x480000, .rdCalCoutB),
     (0x4C0000, .rdMulX), (0x4D0000, .rdMulY), (0x4E0000, .rdMulP), (0x4F0000, .rdMulPh), (0x430000, .rdUnmapped 0x03#5)] = true := by
  decide

theorem test_decode_rd_high : decodesTo
    [(0x500000, .rdRawCout), (0x510000, .rdRawVout), (0x520000, .rdRawVin), (0x540000, .rdCout), (0x550000, .rdVout),
     (0x560000, .rdVin), (0x570000, .rdAcc), (0x580000, .rdSeqStat), (0x590000, .rdSpcStat), (0x5A0000, .rdDutyV),
     (0x5B0000, .rdDutyI), (0x5C0000, .rdApplVset), (0x5D0000, .rdApplCset), (0b010111100000000000000000, .rdStatus),
     (0x5F0000, .rdUnmapped 0x1F#5)] = true := by decide

theorem test_decode_wr_low : decodesTo
    [(0x800003, .wrCfgOutput 0x0003#16), (0b100000010001010000000000, .wrCfgVset 0x1400#16), (0x820601, .wrCfgCset 0x0601#16),
     (0x840400, .wrCalVin 0x0400#16), (0x850400, .wrCalVoutA 0x0400#16), (0x860001, .wrCalVoutB 0x0001#16),
     (0x87FFFF, .wrCalCoutA 0xFFFF#16), (0x880001, .wrCalCoutB 0x0001#16), (0x8C0400, .wrMulX 0x0400#16),
     (0x8D0200, .wrMulY 0x0200#16), (0x8E0001, .wrMulP 1#16), (0x8F0001, .wrMulPh 1#16),
     (0x89ABCD, .wrUnmapped 0x09#5 0xABCD#16)] = true := by decide

theorem test_decode_wr_high : decodesTo
    [(0x900001, .wrRawCout 1#16), (0x910001, .wrRawVout 1#16), (0x920001, .wrRawVin 1#16), (0x940001, .wrCout 1#16),
     (0x951234, .wrVout 0x1234#16), (0x960001, .wrVin 1#16), (0x970001, .wrAcc 1#16), (0x980001, .wrSeqStat 1#16),
     (0x990001, .wrSpcStat 1#16), (0x9A0001, .wrDutyV 1#16), (0x9B0001, .wrDutyI 1#16), (0x9C0001, .wrApplVset 1#16),
     (0x9D0001, .wrApplCset 1#16), (0x9E0007, .wrStatus 7#16), (0x9F0001, .wrUnmapped 0x1F#5 1#16)] = true := by decide

theorem test_decode_malformed : [0x000001, 0x200000, 0x410001, 0x610000, 0x630000, 0xA10000, 0xC02000, 0xE00000, 0xFFFFFF].all
    (fun w => decodeTableWord 24 w == none) = true := by decide

/-- A micro-operation has no word: its row's bits are those of a TICK (R54). -/
theorem test_micro_has_no_word : [Instr.adcKick, .adcDone 1#10, .calI 1#10, .fxmul 1 1, .duty 1 1 1, .progV, .spHold].all
    (fun i => (encode i).isNone) = true := by decide

/-! ### RD, WR, errors (sections 2.5, 2.6) -/

theorem test_rd_cfg_output : response { Regs.reset with cfgEn := true } 0x400000 = some (1, 0, []) := by decide
theorem test_rd_targets : response running 0x410000 = some (0x1400, 0, []) ∧ response running 0x420000 = some (0x0400, 0, []) := by decide
theorem test_rd_calibration : [0x440000, 0x450000, 0x460000, 0x470000, 0x480000].map (response calibrated) =
    [some (0x4000, 0, []), some (0x3400, 0, []), some (0x0100, 0, []), some (0x0500, 0, []), some (0x0040, 0, [])] := by decide
/-- Section 2.2, row `0xFFFF × 0xFFFF`. -/
theorem test_rd_multiplier : [0x4C0000, 0x4D0000, 0x4E0000, 0x4F0000].map (response { Regs.reset with mulX := 0xFFFF, mulY := 0xFFFF }) =
    [some (0xFFFF, 0, []), some (0xFFFF, 0, []), some (0xFF80, 0, []), some (0x3F, 0, [])] := by decide
theorem test_rd_raw : [0x500000, 0x510000, 0x520000].map (response { Regs.reset with rawCout := 1023, rawVout := 10, rawVin := 11 }) =
    [some (1023, 0, []), some (10, 0, []), some (11, 0, [])] := by decide
theorem test_rd_measured : [0x540000, 0x550000, 0x560000, 0x570000].map
    (response { Regs.reset with cout := 1, vout := 2, vin := 3, acc := 4 }) =
    [some (1, 0, []), some (2, 0, []), some (3, 0, []), some (4, 0, [])] := by decide
/-- Section 3, program P6 step 10. -/
theorem test_rd_seq_stat : response { Regs.reset with ch := .voltageOut, busy := true, ccActive := true, auxLast := true } 0x580000 =
    some (0x001D, 0, []) := by decide
theorem test_rd_spc : [0x590000, 0x5A0000, 0x5B0000, 0x5C0000, 0x5D0000].map (response running) =
    [some (1, 0, []), some (0x0492, 0, []), some (0x0AAA, 0, []), some (0x1400, 0, []), some (0x0400, 0, [])] := by decide
theorem test_rd_status : response { Regs.reset with calOvf := true, dutyOvf := true } 0x5E0000 = some (5, 0, []) := by decide
theorem test_rd_keeps_registers : regsAfter running 0x5E0000 = some running := by decide
theorem test_rd_unmapped : [0x430000, 0x490000, 0x4A0000, 0x4B0000, 0x530000, 0x5F0000].map (response running) =
    List.replicate 6 (some (0, 1, [])) := by decide

theorem test_wr_cfg_output : regsAfter Regs.reset 0x800003 = some { Regs.reset with cfgEn := true } ∧
    regsAfter running 0x800002 = some { running with cfgEn := false } := by decide
theorem test_wr_targets : regsAfter Regs.reset 0x81FFFF = some { Regs.reset with cfgVset := 0xFFFF } ∧
    regsAfter Regs.reset 0x820601 = some { Regs.reset with cfgCset := 0x0601 } := by decide
theorem test_wr_calibration : [0x841111, 0x852222, 0x863333, 0x874444, 0x885555].map (regsAfter Regs.reset) =
    [some { Regs.reset with calVin := 0x1111 }, some { Regs.reset with calVoutA := 0x2222 },
     some { Regs.reset with calVoutB := 0x3333 }, some { Regs.reset with calCoutA := 0x4444 },
     some { Regs.reset with calCoutB := 0x5555 }] := by decide
theorem test_wr_multiplier : regsAfter Regs.reset 0x8C0400 = some { Regs.reset with mulX := 0x0400 } ∧
    regsAfter Regs.reset 0x8D0200 = some { Regs.reset with mulY := 0x0200 } := by decide
theorem test_wr_read_only : [0x8E0001, 0x8F0001, 0x900001, 0x910001, 0x920001, 0x940001, 0x950001, 0x960001, 0x970001,
    0x980001, 0x990001, 0x9A0001, 0x9B0001, 0x9C0001, 0x9D0001].map (fun w => (response running w, regsAfter running w)) =
    List.replicate 15 (some (0, 2, []), some running) := by decide
/-- Section 2.5, rows of `STATUS = 0x0007`. -/
theorem test_wr_status : [0x9E0000, 0x9E0002, 0x9EFFF8, 0x9EFFFF].map
    (fun w => (regsAfter { Regs.reset with calOvf := true, calUnf := true, dutyOvf := true } w).map fun r => (statusWord r).toNat) =
    [some 7, some 5, some 7, some 0] := by decide
theorem test_wr_status_sets_nothing : regsAfter Regs.reset 0x9E0007 = some Regs.reset := by decide
theorem test_wr_unmapped : response running 0x89ABCD = some (0, 1, []) ∧ regsAfter running 0x89ABCD = some running := by decide
theorem test_malformed : [0x000001, 0x610000, 0x410001, 0x630000, 0xA10000, 0xC02000].map
    (fun w => (response Regs.reset w, regsAfter Regs.reset w)) = List.replicate 6 (some (0, 3, []), some Regs.reset) := by decide

/-! ### IDLE and TICK -/

theorem test_idle : response running 0x000000 = some (0, 0, []) ∧ regsAfter running 0x000000 = some running := by decide
/-- Section 3, program P6 step 8: the longest event list. -/
theorem test_tick_everything : response { inFlight .voltageIn with cfgEn := true, cfgVset := 0x8C00, cfgCset := 0x0C00, calVin := 0x0400 } 0xC01FFF =
    some (0, 0, [0x40000, 0xA1023, 0x20000, 0xC0001, 0x62000, 0x72000, 0x80001]) := by decide
/-- Section 2.3, transition step 1: `RDY` is ignored while `BUSY = 0`. -/
theorem test_tick_first : response Regs.reset 0xC01005 = some (0, 0, [0x20000]) ∧
    regsAfter Regs.reset 0xC01005 = some { Regs.reset with busy := true } := by decide

/-! ### The micro-operations on their own -/

theorem test_adc_kick : alone { Regs.reset with ch := .voltageIn } .adcKick = some ({ Regs.reset with ch := .voltageIn, busy := true }, [0x20002], 0) := by
  decide
/-- Section 3, program P2, row 1 of section 2.3. -/
theorem test_adc_done_current : (alone calibrated (.adcDone 100)).map (fun p => (p.1.cout, p.1.acc, p.1.rawCout, p.1.ch, p.2.1)) =
    some (0x015C, 0x015C, 100, .voltageOut, [0x40000, 0x20001]) := by decide
theorem test_adc_done_wraps : (alone (inFlight .voltageIn) (.adcDone 11)).map (fun p => (p.1.ch, p.2.1)) =
    some (.current, [0x40000, 0xA0011, 0x20000]) := by decide
theorem test_adc_wait : alone running .adcWait = some (running, [], 0) := by decide
theorem test_cal_i_borrows : (alone { Regs.reset with calCoutB := 5 } (.calI 1023)).map (fun p => (p.1.cout, p.1.calUnf, p.1.calOvf)) =
    some (0xFFFB, true, false) := by decide
/-- Section 2.3, rows 12 and 13: the boundary of `CAL_OVF`. -/
theorem test_cal_i_overflow : [0x5000#16, 0x5001#16].map (fun g => (alone { Regs.reset with calCoutA := g } (.calI 993)).map fun p => (p.1.cout, p.1.calOvf)) =
    [some (0xFFFE, false), some (0x0001, true)] := by decide
theorem test_cal_vo : (alone calibrated (.calVo 117)).map (fun p => (p.1.vout, p.1.rawVout, p.1.acc, p.2.1)) = some (0x129B, 117, 0x129B, []) := by
  decide
/-- Section 2.3, rows 10 and 11: an offset equal to the scaled value, and one more. -/
theorem test_cal_vo_offset : [0x0D33#16, 0x0D34#16].map
    (fun b => (alone { Regs.reset with calVoutA := 0x0800, calVoutB := b } (.calVo 512)).map fun p => (p.1.vout, p.1.calUnf)) =
    [some (0, false), some (0xFFFF, true)] := by decide
theorem test_cal_vi : (alone calibrated (.calVi 745)).map (fun p => (p.1.vin, p.1.rawVin, p.1.acc, p.2.1)) =
    some (0x99A6, 745, 0x99A6, [0xA0745]) := by decide
theorem test_disp : [0, 7, 999, 1000, 1023].map (fun n => (alone running (.disp (BitVec.ofNat 10 n))).map fun p => p.2.1) =
    [some [0xA0000], some [0xA0007], some [0xA0999], some [0xA1000], some [0xA1023]] := by decide
/-- Section 2.2: a tie, just below it, the largest result, the boundary against `REF_VOLT`. -/
theorem test_fxmul : [(0x0003#16, 0x0200#16), (0x0001#16, 0x01FF#16), (0xFFFF#16, 0xFFFF#16), (0x4D95#16, 0x0D33#16)].map
    (fun p => (alone running (.fxmul p.1 p.2)).map fun q => q.2.2) = [some 2, some 0, some 0x3FFF80, some 0x10001] := by decide
theorem test_fxmul_frame : alone running (.fxmul 0x0400 0x0005) = some (running, [], 5) := by decide
theorem test_sense : alone running (.sense true) = some ({ running with ccActive := true }, [], 0) := by decide
theorem test_diag_change : alone running (.diag true) = some ({ running with auxLast := true }, [0xC0001], 0) ∧
    alone { running with auxLast := true } (.diag false) = some (running, [0xC0000], 0) := by decide
theorem test_diag_same : alone running (.diag false) = some (running, [], 0) := by decide
/-- Section 2.4, rows `M = 0x0400`, `D = 0xFFFF`. -/
theorem test_duty : [0x0400#16, 0x0401#16].map (fun sp => (alone Regs.reset (.duty sp 0x0400 0xFFFF)).map fun p => (p.2.2, p.1.dutyOvf)) =
    [some (0xFFFF, false), some (0x003E, true)] := by decide
theorem test_duty_zero_divisor : exec (.duty 1 0 1) State.reset = .refused .zeroFullScale := rfl
theorem test_prog_v : (alone { running with cfgVset := 0x3000 } .progV).map (fun p => (p.1.dutyV, p.1.applVset, p.2.1)) =
    some (0x0AF8, 0x3000, [0x60AF8]) := by decide
theorem test_prog_i_overflow : (alone { running with cfgCset := 0xFFFF } .progI).map (fun p => (p.1.dutyI, p.1.applCset, p.1.dutyOvf, p.2.1)) =
    some (0xAAA8, 0xFFFF, true, [0x7AAA8]) := by decide
/-- The example of R89. -/
theorem test_sp_enable : alone { Regs.reset with cfgEn := true, cfgVset := 0x1400, cfgCset := 0x0400 } .spEnable =
    some (running, [0x60492, 0x70AAA, 0x80001], 0) := by decide
theorem test_sp_disable : alone { running with cfgEn := false } .spDisable =
    some ({ Regs.reset with cfgVset := 0x1400, cfgCset := 0x0400 }, [0x80000, 0x60000, 0x70000], 0) := by decide
/-- Section 2.4, FSM rows: an unchanged target, and a new one with the same duty. -/
theorem test_sp_reconcile : (alone running .spReconcile).map (fun p => p.2.1) = some [] ∧
    (alone { running with cfgVset := 0x1401 } .spReconcile).map (fun p => p.2.1) = some [0x60492] := by decide
theorem test_sp_reconcile_both : (alone { running with cfgVset := 0x3000, cfgCset := 0x0601 } .spReconcile).map (fun p => p.2.1) =
    some [0x60AF8, 0x71002] := by decide
theorem test_sp_hold : alone running .spHold = some (running, [], 0) := by decide

/-! ### Reset, ports, pseudo-operations, text -/

theorem test_reset_input : step ((withR running).presentInput .reset) = .next State.reset := rfl
theorem test_ports : (⟨true, true, 0x01#5, 0x1400#16, false, false, false, false, 0⟩ : Ports).word = some 0x811400#24 ∧
    (⟨false, false, 0, 0, true, true, true, false, 100⟩ : Ports).word = some 0xC01864#24 := by decide
theorem test_ports_both_strobes : (⟨true, false, 0, 0, true, false, false, false, 0⟩ : Ports).word = none := by decide
/-- Ports that the format does not carry are ignored (log 23). -/
theorem test_ports_not_carried : (⟨true, false, 0x1E#5, 0xFFFF#16, false, true, true, true, 1023#10⟩ : Ports).word = some 0x5E0000#24 ∧
    (⟨false, true, 0x1E#5, 0xFFFF#16, true, false, false, false, 5#10⟩ : Ports).word = some 0xC00005#24 := by decide
theorem test_pseudo : Pseudo.clrFlags.map encode = [some 0x9E0007#24] ∧ (Pseudo.output true).map encode = [some 0x800001#24] := by decide
theorem test_text : Text.line "WR CFG_VSET, 0x1400 ; 5.0 V" = some [.wrCfgVset 0x1400#16] ∧
    Text.line "TICK rdy=1 raw=745 aux=1" = some [.tick true false true 745#10] ∧
    Text.line "MUL 3, 0x0200" = some (Pseudo.mul 3 0x0200) ∧ Text.line "TICK rdy=2" = none := by decide
theorem test_word_text : Text.wordText 0x5F0000#24 = some "RD 0x1F" ∧ Text.wordText 0x9E0007#24 = some "WR STATUS, 0x0007" ∧
    Text.wordText 0x630000#24 = none := by decide

/-! ### Witnesses: for every statement with hypotheses, what meets them -/

theorem witness_StepRunsTheDecodedOperation :
    (State.reset.present 0x5E0000#24).pending = .word 0x5E0000#24 :: [] ∧ decode 0x5E0000#24 = .instr .rdStatus := by decide
theorem witness_NothingPresentedIsIdle : State.reset.pending = [] := rfl
theorem witness_ResetInputLoadsResetValues : ((withR running).presentInput .reset).pending = .reset :: [] := rfl
theorem witness_DecodeReadsEncodedOperation :
    (Instr.wrUnmapped 0x1F#5 0xFFFF#16).wellFormed = true ∧ encode (.wrUnmapped 0x1F#5 0xFFFF#16) = some 0x9FFFFF#24 ∧
    (Instr.tick true true true 1023#10).wellFormed = true ∧ encode (.tick true true true 1023#10) = some 0xC01FFF#24 ∧
    Instr.idle.isMicro = false := by decide
theorem witness_DecodedOperationEncodesBack : decode 0xC016E9#24 = .instr (.tick true false true 745#10) := by decide
/-- One word of each kind, the lowest or the highest of its fixed bits set. -/
theorem witness_MalformedWordIsAnsweredWithCodeThree :
    FixedBitSet 0x000001#24 ∧ FixedBitSet 0x200000#24 ∧ FixedBitSet 0x410001#24 ∧ FixedBitSet 0x610000#24 ∧
    FixedBitSet 0xA10000#24 ∧ FixedBitSet 0xC02000#24 ∧ FixedBitSet 0xE00000#24 :=
  ⟨.inl ⟨by decide, 0, by decide, by decide⟩, .inl ⟨by decide, 21, by decide, by decide⟩,
    .inr (.inl ⟨by decide, .inr ⟨0, by decide, by decide⟩⟩), .inr (.inl ⟨by decide, .inl (by decide)⟩),
    .inr (.inr (.inl ⟨by decide, by decide⟩)), .inr (.inr (.inr ⟨by decide, 13, by decide, by decide, by decide⟩)),
    .inr (.inr (.inr ⟨by decide, 21, by decide, by decide, by decide⟩))⟩
theorem witness_TickWordCarriesItsInputs_idle_adc : State.reset.regs.busy = false := rfl
theorem witness_TickWordCarriesItsInputs_not_ready : ((withR (inFlight .current)).regs.busy = false ∨ false = false) := by decide
theorem witness_PortsSpellTheOperation : ∃ p q r i b : Ports,
    (p.req = true ∧ p.tick = false ∧ p.we = false) ∧ (q.req = true ∧ q.tick = false ∧ q.we = true) ∧
    (r.req = false ∧ r.tick = true) ∧ (i.req = false ∧ i.tick = false) ∧ (b.req = true ∧ b.tick = true) :=
  ⟨⟨true, false, 0, 0, false, false, false, false, 0⟩, ⟨true, true, 31, 65535, false, false, false, false, 0⟩,
    ⟨false, false, 0, 0, true, true, true, true, 1023⟩, ⟨false, true, 0, 0, false, true, false, false, 0⟩,
    ⟨true, true, 0, 0, true, false, false, false, 0⟩, by decide⟩
theorem witness_UnmappedAccessAnswersCodeOne : 0x03#5 ∈ unmappedAddrs ∧ 0x1F#5 ∈ unmappedAddrs := by decide
theorem witness_ReadOnlyWritesAnswerCodeTwo : Instr.wrApplCset 0xFFFF#16 ∈ [Instr.wrMulP 0xFFFF#16, .wrApplCset 0xFFFF#16] := by decide
theorem witness_MultiplicationLaws : (0 : Nat) ≤ 5 ∧ 5 ≤ 5 ∧ (0x0001#16).toNat ≤ (0xFFFF#16).toNat := by decide
theorem witness_ProductRanges : (0x03FF#16).toNat < 1024 ∧ (0x1FFF#16).toNat ≤ 0x1FFF := by decide
theorem witness_MulPseudoOperationReadsWholeProduct :
    (Pseudo.mul 0xFFFF#16 0xFFFF#16).mapM encode = some [0x8CFFFF#24, 0x8DFFFF#24, 0x4E0000#24, 0x4F0000#24] := by decide
theorem witness_DoneCalibratesAdvancesAndRestarts :
    (withR (inFlight .current)).regs.busy = true ∧
    (withR (inFlight .current)).regs.ch = .current ∧ (withR (inFlight .voltageOut)).regs.ch = .voltageOut ∧
    (withR (inFlight .voltageIn)).regs.ch = .voltageIn := by decide
/-- Both sides of the threshold: the gains of section 2.3, rows 12 and 13. -/
theorem witness_CalibrationFlagThresholds :
    State.reset.regs.calOvf = false ∧ State.reset.regs.calUnf = false ∧ firstProduct 993 0x5000#16 = 19860 ∧
    firstProduct 993 0x5001#16 = 19861 ∧
    scaled 512 0x0800#16 = 0x0D33 := by decide
theorem witness_SequencerTransitionTable :
    State.reset.regs.busy = false ∧ (withR (inFlight .current)).regs.busy = true ∧
    (withR (inFlight .current)).regs.ch = .current ∧ (withR (inFlight .voltageOut)).regs.ch = .voltageOut ∧
    (withR (inFlight .voltageIn)).regs.ch = .voltageIn := by decide
/-- A tick that completes the output voltage holds the other two channels; one that waits holds all. -/
theorem witness_MeasuredValuesHoldBetweenCompletions :
    (∃ t, exec (.tick true false false 5) (withR (inFlight .voltageOut)) = .next t) ∧
    (∃ t, exec (.tick false false false 5) (withR (inFlight .voltageOut)) = .next t) ∧
    ¬((inFlight .voltageOut).busy = true ∧ true = true ∧ (inFlight .voltageOut).ch = .current) ∧
    ¬((inFlight .current).busy = true ∧ true = true ∧ (inFlight .current).ch = .voltageOut) ∧
    ¬((inFlight .voltageOut).busy = true ∧ true = true ∧ (inFlight .voltageOut).ch = .voltageIn) ∧
    ¬((inFlight .voltageOut).busy = true ∧ false = true) :=
  ⟨⟨_, rfl⟩, ⟨_, rfl⟩, by decide, by decide, by decide, by decide⟩
theorem witness_DutyAnswersTruncatedQuotient : 0x0001#16 ≠ 0 ∧ 0x0000#16 = 0 := by decide
theorem witness_DutyBounds : 0x0001#16 ≠ 0 ∧ (0x1400#16).toNat ≤ (0x1401#16).toNat ∧ (0xFFFF#16).toNat ≤ (0xFFFF#16).toNat := by decide
theorem witness_EnableProgramsBothDutiesThenEnables :
    (withR { running with outOn := false }).regs.cfgEn = true ∧ (withR { running with outOn := false }).regs.outOn = false := by
  decide
theorem witness_DisableDeassertsThenClears :
    (withR { running with cfgEn := false }).regs.cfgEn = false ∧ (withR { running with cfgEn := false }).regs.outOn = true := by
  decide
theorem witness_ReconcileReprogramsChangedTargets : (withR running).regs.cfgEn = true ∧ (withR running).regs.outOn = true := by
  decide
theorem witness_HoldDoesNothing : State.reset.regs.cfgEn = false ∧ State.reset.regs.outOn = false := by decide
theorem witness_TickHonoursTheRequest :
    OnDutiesMatch (withR running) ∧ (withR running).regs.cfgEn = true ∧
    ∃ t, exec (.tick false false false 0) (withR running) = .next t :=
  ⟨fun _ => by decide, rfl, _, rfl⟩
theorem witness_StepKeepsInvariant_output_on :
    MachineInv (withR { running with busy := true }) ∧ ∃ t, step (withR { running with busy := true }) = .next t :=
  ⟨⟨fun h => absurd h (by decide), fun _ => by decide, fun h => absurd h (by decide), rfl⟩, _, rfl⟩
theorem witness_StepKeepsInvariant_reset : MachineInv State.reset ∧ ∃ t, step State.reset = .next t :=
  ⟨⟨fun _ => by decide, fun h => absurd h (by decide), fun _ => by unfold SameSeqRegs SameSpcRegs; decide, rfl⟩, _, rfl⟩
theorem witness_EachRegisterHasOneWriter :
    (∃ t, step (State.reset.present 0x811400#24) = .next t) ∧ (0x811400#24).extractLsb' 22 2 ≠ 0b11#2 ∧
    (∃ t, step (State.reset.present 0xC01864#24) = .next t) ∧ (0xC01864#24).extractLsb' 22 2 = 0b11#2 :=
  ⟨⟨_, rfl⟩, by decide, ⟨_, rfl⟩, by decide⟩
/-- One micro-operation of each unit that writes most. -/
theorem witness_EachRegisterHasOneWriter_units :
    (∃ t, exec (.adcDone 1023) (withR (inFlight .voltageIn)) = .next t) ∧
    (∃ t, exec .spEnable (withR (inFlight .voltageIn)) = .next t) ∧
    (∃ t, exec (.duty 0xFFFF 0x0001 0xFFFF) State.reset = .next t) := ⟨⟨_, rfl⟩, ⟨_, rfl⟩, _, rfl⟩
theorem witness_ErrorsChangeNothing : ∃ t u v : State,
    step (State.reset.present 0x430000#24) = .next t ∧ t.resp.ecode ≠ .ok ∧
    step (State.reset.present 0x951234#24) = .next u ∧ u.resp.ecode ≠ .ok ∧
    step (State.reset.present 0x630000#24) = .next v ∧ v.resp.ecode ≠ .ok :=
  ⟨_, _, _, rfl, by decide, rfl, by decide, rfl, by decide⟩
theorem witness_FlagsStickUntilCleared : ∃ t : State,
    step ((withR { Regs.reset with calOvf := true, calUnf := true, dutyOvf := true }).present 0x9E0007#24) = .next t ∧
    t.regs.calOvf = false ∧ t.regs.calUnf = false ∧ t.regs.dutyOvf = false :=
  ⟨_, rfl, by decide, by decide, by decide⟩
/-- Before the first tick, and in flight after two completions. -/
theorem witness_ChannelsAreSampledRoundRobin_step :
    AdcSoFar [] State.reset.regs ∧ (∃ t, step (State.reset.present 0xC00000#24) = .next t) ∧
    AdcSoFar [.adcStart .current, .adcRead, .adcStart .voltageOut, .diagAux true, .adcRead, .adcStart .voltageIn]
      (inFlight .voltageIn) ∧
    (∃ t, step ((withR (inFlight .voltageIn)).present 0xC01005#24) = .next t) :=
  ⟨.inl ⟨rfl, rfl, rfl⟩, ⟨_, rfl⟩, .inr ⟨rfl, 2, rfl, rfl⟩, _, rfl⟩
/-- Before the first enable, and after it; the tick that holds. -/
theorem witness_OutputIsSwitchedInOrder_step :
    OutEnSoFar [] State.reset.regs ∧
    (∃ t, step (State.reset.present 0xC00000#24) = .next t ∧ State.reset.regs.outOn = false ∧ t.regs.outOn = false) ∧
    OutEnSoFar [.drive .voltage 1, .drive .current 1, .outEn true] (withR running).regs ∧
    (∃ t, step ((withR running).present 0xC00000#24) = .next t) :=
  ⟨⟨0, rfl, rfl⟩, ⟨_, rfl, rfl, by decide⟩, ⟨1, rfl, rfl⟩, _, rfl⟩
theorem witness_ChannelsAreSampledRoundRobin :
    ((trace State.reset [0xC00000#24, 0xC01009#24]).filter isAdc)[2]? = some (.adcStart .voltageOut) ∧
    (readChannels State.reset [0xC00000#24, 0xC01009#24])[0]? = some .current := by decide
/-- A disable and the enable after it, with a duty that is not 0 driven in between. -/
theorem witness_OutputIsSwitchedInOrder : ∃ before between after,
    trace State.reset [0x800001#24, 0xC00000#24, 0x800000#24, 0xC00000#24, 0x811400#24, 0x800001#24, 0xC00000#24] =
      before ++ .outEn false :: (between ++ .drive .voltage 0x0492#16 :: after) ∧
    (∀ level, .outEn level ∉ between) ∧ 0x0492#16 ≠ 0 :=
  ⟨[.adcStart .current, .drive .voltage 0, .drive .current 0, .outEn true], [.drive .voltage 0, .drive .current 0],
    [.drive .current 0, .outEn true], by decide, by decide, by decide⟩
/-- A response with an enable, one with a disable, and a level of the alternation. -/
theorem witness_OutputIsSwitchedInOrder_levels :
    (∃ r ∈ responses State.reset [0x800001#24, 0xC00000#24], r.events =
      [.adcStart .current, .drive .voltage 0, .drive .current 0] ++ .outEn true :: []) ∧
    (∃ r ∈ responses (withR { running with cfgEn := false, busy := true }) [0xC00000#24], r.events =
      [] ++ .outEn false :: [.drive .voltage 0, .drive .current 0]) ∧
    ((trace State.reset [0x800001#24, 0xC00000#24]).filterMap outEnLevel)[0]? = some true := by decide
theorem witness_SetpointsIgnoreMeasurements :
    SameForSpc State.reset (withR (inFlight .voltageIn)) ∧
    List.Forall₂ SameButTickInputs [0x800001#24, 0xC00000#24] [0x800001#24, 0xC01FFF#24] :=
  ⟨by unfold SameForSpc SameSpcRegs; decide,
    .cons (.inl rfl) (.cons (.inr ⟨⟨false, false, false, 0, rfl⟩, ⟨true, true, true, 1023, rfl⟩⟩) .nil)⟩
/-- The first and the last address, and a word of each kind that may stand between. -/
theorem witness_LastWriteBeforeTheTickWins : 0x00#5 ≠ 0x1E#5 ∧ 0x1F#5 ≠ 0x1E#5 ∧
    ∀ w ∈ [0x000000#24, 0x5E0000#24, 0x9E0007#24, 0xA00000#24], w.extractLsb' 22 2 ≠ 0b11#2 :=
  ⟨by decide, by decide, by simp only [List.forall_mem_cons]; exact ⟨by decide, by decide, by decide, by decide, by simp⟩⟩

end Sys2Proof.Tests
end

namespace Sys2Proof.Proofs

open Sys2Proof.Machine

/-- Settles O4: the registers after reset are `Regs.reset` whatever the parameters, so what is left is one closed fact for each
owner's registers (R26) and for `STATUS`. -/
theorem resetValuesAreZero : Obligations.ResetValuesAreZero := by
  intro p
  refine ⟨Regs.reset, State.resetWith_regs p, ?config, ?calibration, ?multiplier, ?measurements, ?sequencer, ?setpoint, ?status,
    ?events⟩
  case config | calibration | multiplier | measurements | sequencer | setpoint | status => decide
  case events => rw [State.resetWith_resp, Response.empty_events]

end Sys2Proof.Proofs

namespace Sys2Proof.Proofs

open Sys2Proof.Machine Sys2Proof.Safety

/-! ### Words as numbers -/

/-- Fields of a word laid side by side: the number of the upper ones, shifted, plus that of the lowest. -/
theorem toNat_append_eq_add {m n : Nat} (x : BitVec m) (y : BitVec n) : (x ++ y).toNat = x.toNat * 2 ^ n + y.toNat := by
  rw [BitVec.toNat_append, ← Nat.shiftLeft_add_eq_or_of_lt y.isLt, Nat.shiftLeft_eq]

/-! ### The TICK word (R47) -/

theorem tickWord_toNat (rdy cc aux : Bool) (raw : Sample) :
    (tickWord rdy cc aux raw).toNat = 0xC00000 + bit rdy * 4096 + bit cc * 2048 + bit aux * 1024 + raw.toNat := by
  simp only [tickWord, toNat_append_eq_add, bit_toNat, BitVec.toNat_ofNat]
  omega

/-! The fields stand as operands of `++`, lowest on the right: `RAW`, `AUX`, `CC`, `RDY`, the zeros, `KIND`. A lemma on a field
steps over the operands to its right. -/

@[simp] theorem tickWord_kind (rdy cc aux : Bool) (raw : Sample) : (tickWord rdy cc aux raw).kind = 0b11#2 := by
  unfold OpWord.kind tickWord
  iterate 4 rw [BitVec.extractLsb'_append_eq_of_le (by decide)]
  exact BitVec.extractLsb'_append_eq_left

@[simp] theorem tickWord_tickZeros (rdy cc aux : Bool) (raw : Sample) : (tickWord rdy cc aux raw).tickZeros = 0 := by
  unfold OpWord.tickZeros tickWord
  iterate 4 rw [BitVec.extractLsb'_append_eq_of_le (by decide)]
  exact BitVec.extractLsb'_append_eq_right

@[simp] theorem tickWord_rdy (rdy cc aux : Bool) (raw : Sample) : (tickWord rdy cc aux raw).rdy = rdy := by
  unfold OpWord.rdy tickWord
  iterate 4 rw [BitVec.getLsbD_append]
  simp

@[simp] theorem tickWord_cc (rdy cc aux : Bool) (raw : Sample) : (tickWord rdy cc aux raw).cc = cc := by
  unfold OpWord.cc tickWord
  iterate 3 rw [BitVec.getLsbD_append]
  simp

@[simp] theorem tickWord_aux (rdy cc aux : Bool) (raw : Sample) : (tickWord rdy cc aux raw).aux = aux := by
  unfold OpWord.aux tickWord
  iterate 2 rw [BitVec.getLsbD_append]
  simp

@[simp] theorem tickWord_raw (rdy cc aux : Bool) (raw : Sample) : (tickWord rdy cc aux raw).raw = raw :=
  BitVec.extractLsb'_append_eq_right

/-- `KIND` selects format T and the fixed bits are 0, so the decoder reads the four inputs (R47, R54). -/
theorem decode_tickWord (rdy cc aux : Bool) (raw : Sample) :
    decode (tickWord rdy cc aux raw) = .instr (.tick rdy cc aux raw) := by
  rw [decode, tickWord_kind, tickWord_tickZeros, tickWord_rdy, tickWord_cc, tickWord_aux, tickWord_raw]
  rfl

/-- Only `ADC.DONE` looks at the sample, and it is selected by `BUSY = 1` and `RDY = 1` (R67). -/
theorem adcStep_ignores_raw {rdy : Bool} {s : State} (raw other : Sample) (h : s.regs.busy = false ∨ rdy = false) :
    adcStep rdy raw s = adcStep rdy other s := by
  rcases h with hidle | hwait
  · simp [adcStep, hidle]
  · simp [adcStep, hwait]

theorem exec_tick (rdy cc aux : Bool) (raw : Sample) (s : State) :
    exec (.tick rdy cc aux raw) s = .next (spcStep (diag aux (sense cc (adcStep rdy raw s.start)))) := rfl

/-- Settles O12: the number is that of `tickWord`, whose fields the decoder reads back; of the micro-operations of a tick only
the ADC one takes the sample. -/
theorem tickWordCarriesItsInputs : Obligations.TickWordCarriesItsInputs := by
  intro rdy cc aux raw
  refine ⟨?decodes, fun s other h => ?sampleUnused⟩
  case decodes => rw [← tickWord_toNat, BitVec.ofNat_toNat, BitVec.setWidth_eq, decode_tickWord]
  case sampleUnused => rw [exec_tick, exec_tick, adcStep_ignores_raw (s := s.start) raw other h]

/-! ### Event words (R51 to R53) -/

theorem channel_code_toNat (c : Channel) : c.code.toNat = channelCode c := by cases c <;> rfl

theorem bcd_toNat (d : Fin 10) : (bcd d).toNat = d.val := by
  rw [bcd, BitVec.toNat_ofNat, Nat.mod_eq_of_lt (by omega)]

theorem adcStart_word_toNat (c : Channel) : (Event.adcStart c).word.toNat = 0x20000 + channelCode c := by
  simp only [Event.word, toNat_append_eq_add, channel_code_toNat, BitVec.toNat_ofNat]
  omega

theorem adcRead_word_toNat : Event.adcRead.word.toNat = 0x40000 := rfl

theorem drive_word_toNat (dch : DriveChannel) (duty : Word) :
    (Event.drive dch duty).word.toNat = 0x60000 + dch.code.toNat * 0x10000 + duty.toNat := by
  simp only [Event.word, toNat_append_eq_add, BitVec.toNat_ofNat]
  omega

theorem outEn_word_toNat (level : Bool) : (Event.outEn level).word.toNat = 0x80000 + bit level := by
  simp only [Event.word, toNat_append_eq_add, bit_toNat, BitVec.toNat_ofNat]
  omega

theorem display_word_toNat (d3 d2 d1 d0 : Fin 10) :
    (Event.display d3 d2 d1 d0).word.toNat = 0xA0000 + d3.val * 4096 + d2.val * 256 + d1.val * 16 + d0.val := by
  simp only [Event.word, toNat_append_eq_add, bcd_toNat, BitVec.toNat_ofNat]
  omega

theorem diagAux_word_toNat (level : Bool) : (Event.diagAux level).word.toNat = 0xC0000 + bit level := by
  simp only [Event.word, toNat_append_eq_add, bit_toNat, BitVec.toNat_ofNat]
  omega

/-- `EKIND`, bits 19:17 of the event word: one code per constructor (R51). -/
def ekind : Event → Nat
  | .adcStart _ => 1
  | .adcRead => 2
  | .drive _ _ => 3
  | .outEn _ => 4
  | .display _ _ _ _ => 5
  | .diagAux _ => 6

theorem bit_le_one (b : Bool) : bit b ≤ 1 := by cases b <;> decide

theorem channelCode_le_two (c : Channel) : channelCode c ≤ 2 := by cases c <;> decide

theorem word_toNat_div_eq_ekind (e : Event) : e.word.toNat / 131072 = ekind e := by
  cases e with
  | adcStart c => have := channelCode_le_two c; rw [adcStart_word_toNat, ekind]; omega
  | adcRead => rw [adcRead_word_toNat, ekind]
  | drive dch duty => rw [drive_word_toNat, ekind]; omega
  | outEn level => have := bit_le_one level; rw [outEn_word_toNat, ekind]; omega
  | display d3 d2 d1 d0 => rw [display_word_toNat, ekind]; omega
  | diagAux level => have := bit_le_one level; rw [diagAux_word_toNat, ekind]; omega

theorem ekind_range (e : Event) : 1 ≤ ekind e ∧ ekind e ≤ 6 := by cases e <;> simp [ekind]

/-- Settles O13: the number of each word is the sum of its fields in place, and its `EKIND` is the code of the constructor,
from 1 to 6. -/
theorem eventWordsAreTheNumbersOfTheTable : Obligations.EventWordsAreTheNumbersOfTheTable := by
  refine ⟨adcStart_word_toNat, adcRead_word_toNat, drive_word_toNat .voltage, drive_word_toNat .current, outEn_word_toNat,
    display_word_toNat, diagAux_word_toNat, fun e => ?kinds⟩
  case kinds =>
    have := ekind_range e
    rw [word_toNat_div_eq_ekind]
    omega

end Sys2Proof.Proofs

namespace Sys2Proof.Proofs

open Sys2Proof.Machine Sys2Proof.Safety

/-! ### The rounded product (R59, R60, R62) -/

/-- Nearest with ties up, in the form R60 states precisely: the half-open window of one unit around `a·b` holds exactly one
multiple of 1024, so a value within half a unit of the quotient is the rounded product and no other. -/
theorem within_half_unit_iff (q a b : Nat) :
    (-512 < 1024 * (q : Int) - (a * b : Int) ∧ 1024 * (q : Int) - (a * b : Int) ≤ 512) ↔ q = rounded a b := by
  rw [← Nat.cast_mul, rounded]
  omega

theorem mulOvf_eq_false_iff_rounded (x y : Word) : mulOvf x y = false ↔ rounded x.toNat y.toNat < 65536 := by
  rw [mulOvf, decide_eq_false_iff_not, fxmulFull_toNat]
  omega

/-- The 16-bit slice keeps the whole product exactly when it does not overflow (R59). -/
theorem mul16_eq_rounded_iff (x y : Word) : (mul16 x y).toNat = rounded x.toNat y.toNat ↔ mulOvf x y = false := by
  rw [mul16_toNat, mulOvf_eq_false_iff_rounded]
  omega

/-- Settles O25: the closed form is `fxmulFull_toNat`; both bounds say that a value is the rounded product, which the 22-bit
product always is and the 16-bit one is when nothing is sliced off. -/
theorem productRoundsHalfUp : Obligations.ProductRoundsHalfUp := by
  intro x y
  refine ⟨fxmulFull_toNat x y, ?full, ?sliced⟩
  case full => exact (within_half_unit_iff _ _ _).mpr (fxmulFull_toNat x y)
  case sliced => exact (within_half_unit_iff _ _ _).trans (mul16_eq_rounded_iff x y)

/-- Below the overflow threshold of R62, `2^26 - 512`. -/
theorem mulOvf_eq_false_iff (x y : Word) : mulOvf x y = false ↔ x.toNat * y.toNat < 67108352 := by
  rw [mulOvf_eq_false_iff_rounded, rounded]
  omega

theorem mulOvf_eq_true_iff (x y : Word) : mulOvf x y = true ↔ 67108352 ≤ x.toNat * y.toNat := by
  rw [← Bool.not_eq_false, mulOvf_eq_false_iff, Nat.not_lt]

theorem fxmulFull_le_max (x y : Word) : (fxmulFull x y).toNat ≤ 0x3FFF80 := by
  have := word_mul_le x y
  rw [fxmulFull_toNat, rounded]
  omega

/-- One operand short of `0xFFFF` costs the exact product a whole operand, far more than rounding gives back. -/
theorem fxmulFull_lt_max_of_ne (x y : Word) (hx : x ≠ 0xFFFF#16) : (fxmulFull x y).toNat < 0x3FFF80 := by
  have hne : x.toNat ≠ 65535 := fun h => hx (BitVec.eq_of_toNat_eq h)
  have hxy : x.toNat * y.toNat ≤ 65534 * 65535 := Nat.mul_le_mul (by omega) (by omega)
  rw [fxmulFull_toNat, rounded]
  omega

theorem fxmulFull_toNat_comm (x y : Word) : (fxmulFull x y).toNat = (fxmulFull y x).toNat := by
  rw [fxmulFull_toNat, fxmulFull_toNat, rounded, rounded, Nat.mul_comm]

theorem fxmulFull_eq_max_iff (x y : Word) : (fxmulFull x y).toNat = 0x3FFF80 ↔ x = 0xFFFF#16 ∧ y = 0xFFFF#16 := by
  constructor
  · intro hmax
    constructor
    · by_contra hx
      exact (fxmulFull_lt_max_of_ne x y hx).ne hmax
    · by_contra hy
      exact (fxmulFull_lt_max_of_ne y x hy).ne (fxmulFull_toNat_comm y x ▸ hmax)
  · rintro ⟨rfl, rfl⟩
    rw [fxmulFull_toNat]
    rfl

/-- An operand below 1.0 is a sample, so the bound is that of a first product. -/
theorem fxmulFull_le_of_lt_one (x y : Word) (hx : x.toNat < 1024) : (fxmulFull x y).toNat ≤ 0xFFBF := by
  have hsample : (x.setWidth 10).toNat = x.toNat := by rw [BitVec.toNat_setWidth, Nat.mod_eq_of_lt hx]
  have hle := firstProduct_le (x.setWidth 10) y
  rwa [firstProduct, hsample, ← fxmulFull_toNat] at hle

theorem mulOvf_eq_false_of_lt_one (x y : Word) (hx : x.toNat < 1024) : mulOvf x y = false := by
  have := fxmulFull_le_of_lt_one x y hx
  rw [mulOvf_eq_false_iff_rounded, ← fxmulFull_toNat]
  omega

theorem mulOvf_eq_false_of_le (x y : Word) (hx : x.toNat ≤ 0x1FFF) (hy : y.toNat ≤ 0x1FFF) : mulOvf x y = false := by
  have hxy : x.toNat * y.toNat ≤ 0x1FFF * 0x1FFF := Nat.mul_le_mul hx hy
  rw [mulOvf_eq_false_iff]
  omega

theorem mulOvf_eq_true_of_ge (x y : Word) (hx : 0x2000 ≤ x.toNat) (hy : 0x2000 ≤ y.toNat) : mulOvf x y = true := by
  have hxy : 0x2000 * 0x2000 ≤ x.toNat * y.toNat := Nat.mul_le_mul hx hy
  rw [mulOvf_eq_true_iff]
  omega

theorem mulOvf_self_eq_false_iff (x : Word) : mulOvf x x = false ↔ x.toNat ≤ 0x1FFF := by
  constructor
  · intro hfits
    by_contra hx
    have hovf := mulOvf_eq_true_of_ge x x (by omega) (by omega)
    exact Bool.false_ne_true (hfits.symm.trans hovf)
  · exact fun hx => mulOvf_eq_false_of_le x x hx hx

/-- Settles O28: each bound on the rounded product is a bound on the exact one, carried through the closed form. -/
theorem productRanges : Obligations.ProductRanges := by
  refine ⟨fxmulFull_le_max, fxmulFull_eq_max_iff, mulOvf_eq_true_iff,
    fun x y hx => ⟨fxmulFull_le_of_lt_one x y hx, mulOvf_eq_false_of_lt_one x y hx⟩,
    mulOvf_eq_false_of_le, ?lastSquare, ?firstOverflow, mulOvf_self_eq_false_iff⟩
  case lastSquare | firstOverflow => rw [fxmulFull_toNat]; rfl

end Sys2Proof.Proofs

namespace Sys2Proof.Proofs

open Sys2Proof.Machine Sys2Proof.Safety

/-! ### The micro-operations of SEQ run on their own (log 7) -/

theorem exec_calI (raw : Sample) (s : State) : exec (.calI raw) s = .next (calI raw s.start) := rfl
theorem exec_calVo (raw : Sample) (s : State) : exec (.calVo raw) s = .next (calVo raw s.start) := rfl
theorem exec_calVi (raw : Sample) (s : State) : exec (.calVi raw) s = .next (calVi raw s.start) := rfl
theorem exec_disp (raw : Sample) (s : State) : exec (.disp raw) s = .next (disp raw s.start) := rfl
theorem exec_adcDone (raw : Sample) (s : State) : exec (.adcDone raw) s = .next (adcDone raw s.start) := rfl
theorem exec_sense (cc : Bool) (s : State) : exec (.sense cc) s = .next (sense cc s.start) := rfl
theorem exec_diag (aux : Bool) (s : State) : exec (.diag aux) s = .next (diag aux s.start) := rfl

/-- A micro-operation run on its own starts with no events, so the events it appends are all of its events. -/
theorem acts_start_doing (s : State) (r : Regs) (es : List Event) : Acts s (s.start.doing r es) r es :=
  ⟨rfl, rfl, rfl, rfl⟩

theorem acts_start_withRegs (s : State) (r : Regs) : Acts s (s.start.withRegs r) r [] :=
  ⟨rfl, rfl, rfl, rfl⟩

theorem acts_start_withRegs_emit (s : State) (r : Regs) (e : Event) : Acts s ((s.start.withRegs r).emit e) r [e] :=
  ⟨rfl, rfl, rfl, rfl⟩

/-! ### The display and the three calibrations (R73 to R75, R77) -/

/-- Settles O33: the digits are those of `disp_spec`; a sample is below 2000, so the thousands are 0 or 1. -/
theorem displayReceivesDecimalDigits : Obligations.DisplayReceivesDecimalDigits := by
  intro s raw
  obtain ⟨d3, d2, d1, d0, hdisp, h3, h2, h1, h0⟩ := disp_spec raw
  refine ⟨_, d3, d2, d1, d0, exec_disp raw s, ?acts, h3, h2, h1, h0, ?thousands⟩
  case acts => rw [hdisp]; exact acts_start_withRegs_emit s s.regs _
  case thousands => have := raw.isLt; omega

/-- Settles O30: the closed form of `CAL.I`, at the start of an operation. -/
theorem currentCalibrationStoresSample : Obligations.CurrentCalibrationStoresSample := by
  intro s raw
  refine ⟨_, exec_calI raw s, ?_⟩
  rw [calI_spec]
  exact acts_start_withRegs s _

/-- Settles O31: the closed form of `CAL.VO`, at the start of an operation. -/
theorem outputVoltageCalibrationStoresSample : Obligations.OutputVoltageCalibrationStoresSample := by
  intro s raw
  refine ⟨_, exec_calVo raw s, ?_⟩
  rw [calVo_spec]
  exact acts_start_withRegs s _

/-- Settles O32: the closed form of `CAL.VI`, whose event is that of `DISP`; the four digits spell the sample. -/
theorem inputVoltageCalibrationStoresAndDisplays : Obligations.InputVoltageCalibrationStoresAndDisplays := by
  intro s raw
  obtain ⟨d3, d2, d1, d0, hdisp, h3, h2, h1, h0⟩ := disp_spec raw
  refine ⟨_, d3, d2, d1, d0, exec_calVi raw s, ?acts, ?spelling⟩
  case acts => rw [calVi_spec, hdisp]; exact acts_start_withRegs_emit s _ _
  case spelling => omega

/-! ### The completion of a conversion (R69, R76) -/

theorem calI_events (raw : Sample) (s : State) : (calI raw s).resp.events = s.resp.events := rfl
theorem calVo_events (raw : Sample) (s : State) : (calVo raw s).resp.events = s.resp.events := rfl

theorem calVi_start_events (raw : Sample) (s : State) :
    ∃ d3 d2 d1 d0, (calVi raw s.start).resp.events = [.display d3 d2 d1 d0] := ⟨_, _, _, _, rfl⟩

/-- The calibration that the channel in flight selects (the `case` of R69). -/
theorem calibrate_of_current {s : State} (raw : Sample) (h : s.regs.ch = .current) : calibrate raw s = calI raw s := by
  rw [calibrate, h]

theorem calibrate_of_voltageOut {s : State} (raw : Sample) (h : s.regs.ch = .voltageOut) :
    calibrate raw s = calVo raw s := by
  rw [calibrate, h]

theorem calibrate_of_voltageIn {s : State} (raw : Sample) (h : s.regs.ch = .voltageIn) :
    calibrate raw s = calVi raw s := by
  rw [calibrate, h]

/-- A calibration reads the registers only: after other events it does and appends what it would at the start of an
operation. -/
theorem calibrate_start (raw : Sample) (s : State) :
    calibrate raw s = s.doing (calibrate raw s.start).regs (calibrate raw s.start).resp.events := by
  cases h : s.regs.ch with
  | current =>
    rw [calibrate_of_current raw h, calibrate_of_current (s := s.start) raw h, calI_events]
    exact State.withRegs_eq_doing s _
  | voltageOut =>
    rw [calibrate_of_voltageOut raw h, calibrate_of_voltageOut (s := s.start) raw h, calVo_events]
    exact State.withRegs_eq_doing s _
  | voltageIn => rw [calibrate_of_voltageIn raw h, calibrate_of_voltageIn (s := s.start) raw h]; rfl

/-- No calibration writes `CH` (R73 to R75). -/
theorem calibrate_ch (raw : Sample) (s : State) : (calibrate raw s).regs.ch = s.regs.ch := by
  unfold calibrate
  split <;> rfl

/-- `ADC.DONE` run on its own: the calibration of the channel in flight, then the advance, with the calibration's events between
the read and the next start (R69). -/
theorem acts_adcDone (raw : Sample) (s : State) :
    Acts s (adcDone raw s.start) { (calibrate raw s.start).regs with ch := s.regs.ch.next }
      (.adcRead :: (calibrate raw s.start).resp.events ++ [.adcStart s.regs.ch.next]) := by
  have hcal : calibrate raw (s.start.emit .adcRead) =
      s.start.doing (calibrate raw s.start).regs (.adcRead :: (calibrate raw s.start).resp.events) := by
    rw [calibrate_start, State.emit_eq_doing, State.doing_doing]; rfl
  have hch : (calibrate raw s.start).regs.ch = s.regs.ch := calibrate_ch raw s.start
  rw [adcDone, hcal, advance_spec, State.withRegs_eq_doing, State.emit_eq_doing, State.doing_doing, State.doing_doing,
    State.doing_regs, State.doing_regs, hch]
  exact acts_start_doing s _ _

/-- Settles O35: each channel is `acts_adcDone` with the calibration that the channel selects. -/
theorem doneCalibratesAdvancesAndRestarts : Obligations.DoneCalibratesAdvancesAndRestarts := by
  intro s raw
  have hdone := acts_adcDone raw s
  refine ⟨fun hbusy => ?selected, fun hch => ?current, fun hch => ?voltageOut, fun hch => ?voltageIn⟩
  case selected => simp [adcStep, hbusy]
  case current =>
    rw [calibrate_of_current (s := s.start) raw hch, calI_events, hch] at hdone
    exact ⟨_, _, exec_calI raw s, exec_adcDone raw s, hdone⟩
  case voltageOut =>
    rw [calibrate_of_voltageOut (s := s.start) raw hch, calVo_events, hch] at hdone
    exact ⟨_, _, exec_calVo raw s, exec_adcDone raw s, hdone⟩
  case voltageIn =>
    obtain ⟨d3, d2, d1, d0, hdisplay⟩ := calVi_start_events raw s
    rw [calibrate_of_voltageIn (s := s.start) raw hch, hdisplay, hch] at hdone
    exact ⟨_, _, d3, d2, d1, d0, exec_calVi raw s, hdisplay, exec_adcDone raw s, hdone⟩

/-! ### A tick as its micro-operations (R67, R88, R102) -/

/-- The ADC micro-operation that a tick selects, run on its own, is the ADC part of the tick (R67). -/
theorem exec_selected_adc (rdy : Bool) (raw : Sample) (s : State) :
    exec (if s.regs.busy = false then .adcKick else if rdy = true then .adcDone raw else .adcWait) s =
      .next (adcStep rdy raw s.start) := by
  rcases adcStep_cases rdy raw s.start with ⟨hbusy, e⟩ | ⟨hbusy, rfl, e⟩ | ⟨hbusy, rfl, e⟩ <;>
    rw [State.start_regs] at hbusy <;> rw [e, hbusy] <;> rfl

/-- The SPC micro-operation that a tick from `s` selects, run on its own in any state `u` with the same request and FSM state, is
the SPC part of the tick there (R88). -/
theorem exec_selected_spc {s u : State} (hen : u.regs.cfgEn = s.regs.cfgEn) (hon : u.regs.outOn = s.regs.outOn) :
    exec (if s.regs.cfgEn = true ∧ s.regs.outOn = false then .spEnable
      else if s.regs.cfgEn = false ∧ s.regs.outOn = true then .spDisable
      else if s.regs.outOn = true then .spReconcile else .spHold) u = .next (spcStep u.start) := by
  rw [← hen, ← hon]
  rcases spcStep_cases u.start with ⟨hcfgEn, houtOn, e⟩ | ⟨hcfgEn, houtOn, e⟩ | ⟨hcfgEn, houtOn, e⟩ |
    ⟨hcfgEn, houtOn, e⟩ <;>
    rw [State.start_regs] at hcfgEn houtOn <;> rw [e, hcfgEn, houtOn] <;> rfl

/-- The first half of SENSE, in the tick: it only replaces the registers. -/
theorem sense_doing (cc : Bool) (s : State) (r : Regs) (es : List Event) :
    sense cc (s.doing r es) = s.doing { r with ccActive := cc } es := rfl

/-- A new operation keeps the registers that the one before it left, and none of its events. -/
theorem start_doing_start (s : State) (r : Regs) (es : List Event) : (s.start.doing r es).start = s.start.doing r [] := rfl

/-- The second half of SENSE as an operation of its own, after another one that left the registers `r`. -/
theorem exec_diag_after (aux : Bool) (s : State) (r : Regs) (es : List Event) :
    exec (.diag aux) (s.start.doing r es) = .next (s.start.doing { r with auxLast := aux } (diagEvents aux r)) := by
  rw [exec_diag, start_doing_start, diag_eq_doing, State.doing_doing]
  rfl

/-- The SPC part of a tick, after the parts that left the registers `r` and emitted `es`: the registers and events that it gives
at the start of an operation of its own, its events last. -/
theorem spcStep_after (s : State) (r : Regs) (es : List Event) :
    spcStep (s.start.doing r es) =
      s.start.doing (spcStep (s.start.doing r [])).regs (es ++ (spcStep (s.start.doing r [])).resp.events) := by
  rw [spcStep_start, start_doing_start, State.doing_doing]

theorem replies_start_doing (s : State) (r : Regs) (es : List Event) : Replies s (s.start.doing r es) r ⟨0, .ok, es⟩ :=
  ⟨rfl, rfl, rfl, rfl⟩

/-- Settles O24: each part of the tick does the same at the start of an operation of its own as after the parts before it, and
appends the same events. SEQ does not write `CFG_EN` or `OUT_ON`, so the selection of the SPC part is that at the start of the
tick. -/
theorem tickRunsItsMicroOperationsInOrder : Obligations.TickRunsItsMicroOperationsInOrder := by
  intro rdy cc aux raw s
  obtain ⟨q, adc, hadc, hadcStep⟩ := adcStep_spec rdy raw s.start
  obtain ⟨⟨hcfgEn, -⟩, ⟨houtOn, -⟩, -⟩ := hadc.frame
  refine ⟨s.start.doing q adc, s.start.doing { q with ccActive := cc } [], _, _, _, ?adc, exec_sense cc _,
    exec_diag_after aux s _ [], exec_selected_spc hcfgEn houtOn, exec_tick rdy cc aux raw s, ?replies⟩
  case adc => rw [exec_selected_adc, hadcStep]
  case replies =>
    rw [hadcStep, sense_doing, diag_eq_doing, State.doing_doing, spcStep_after]
    change Replies s _ _ ⟨0, .ok, adc ++ [] ++ diagEvents aux _ ++ _⟩
    rw [List.append_nil]
    exact replies_start_doing s _ _

/-! ### The channel cycle over a run (R71) -/

/-- What one word can do to the channel cycle, as far as `BUSY`, `CH` and the ADC events show it: nothing, the first start, or
the completion of the channel in flight and the start of the next one (R67 to R70). -/
inductive AdcMove (r q : Regs) (events : List Event) : Prop
  | hold (busy_kept : q.busy = r.busy) (ch_kept : q.ch = r.ch) (silent : events.filter isAdc = [])
  | start (idle : r.busy = false) (busy_set : q.busy = true) (ch_kept : q.ch = r.ch)
      (started : events.filter isAdc = [.adcStart r.ch])
  | complete (in_flight : r.busy = true) (busy_set : q.busy = true) (ch_next : q.ch = r.ch.next)
      (restarted : events.filter isAdc = [.adcRead, .adcStart r.ch.next])

/-- The ADC part of a tick moves the cycle. -/
theorem adcMove_of_adcDoes {rdy : Bool} {raw : Sample} {r q : Regs} {es : List Event} (h : AdcDoes rdy raw r q es) :
    AdcMove r q es := by
  rcases h with ⟨hidle, rfl, rfl⟩ | ⟨-, -, rfl, rfl⟩ | ⟨hbusy, -, hch, rfl, rfl⟩ | ⟨hbusy, -, hch, rfl, rfl⟩ |
    ⟨hbusy, -, hch, ⟨d3, d2, d1, d0, rfl⟩, rfl⟩
  · exact .start hidle rfl rfl rfl
  · exact .hold rfl rfl rfl
  all_goals exact .complete hbusy hbusy (by rw [hch]; rfl) (by rw [hch]; rfl)

/-- A move is seen in `BUSY`, `CH` and the ADC events only. -/
theorem AdcMove.congr {r q q' : Regs} {es es' : List Event} (h : AdcMove r q es) (hbusy : q'.busy = q.busy)
    (hch : q'.ch = q.ch) (hes : es'.filter isAdc = es.filter isAdc) : AdcMove r q' es' := by
  cases h with
  | hold busy_kept ch_kept silent => exact .hold (hbusy.trans busy_kept) (hch.trans ch_kept) (hes.trans silent)
  | start idle busy_set ch_kept started =>
    exact .start idle (hbusy.trans busy_set) (hch.trans ch_kept) (hes.trans started)
  | complete in_flight busy_set ch_next restarted =>
    exact .complete in_flight (hbusy.trans busy_set) (hch.trans ch_next) (hes.trans restarted)

/-- A whole tick moves the cycle as its ADC part does: what follows emits nothing to the ADC and writes neither `BUSY` nor
`CH`. -/
theorem exec_tick_adcMove {rdy cc aux : Bool} {raw : Sample} {s t : State} (h : exec (.tick rdy cc aux raw) s = .next t) :
    AdcMove s.regs t.regs t.resp.events := by
  obtain ⟨q, r, adc, spc, hadc, hspc, htick⟩ := exec_tick_spec rdy cc aux raw s
  cases htick.symm.trans h
  obtain ⟨-, ⟨-, -, -, -, -, -, -, hch, hbusy, -⟩, -⟩ := hspc.frame
  refine (adcMove_of_adcDoes hadc).congr hbusy hch ?_
  obtain ⟨-, hdiag, -⟩ := diagEvents_filters aux s.regs
  obtain ⟨-, hnone, -⟩ := hspc.only_spc_events
  simp [hdiag, hnone]

/-- Every word moves the cycle, in every state; only a TICK does anything to it. -/
theorem step_adcMove {s t : State} {w : OpWord} (h : step (s.present w) = .next t) :
    AdcMove s.regs t.regs t.resp.events := by
  obtain ⟨t', hstep, -, -, hcases⟩ := step_present_cases s w
  cases hstep.symm.trans h
  rcases hcases with ⟨-, hregs, hevents, -⟩ | ⟨-, x, -, -, -, hregs, hresp⟩ | ⟨-, hregs, hresp⟩ | ⟨-, -, htick⟩
  · exact .hold (by rw [hregs]) (by rw [hregs]) (by rw [hevents]; rfl)
  · obtain ⟨⟨-, -, -, -, -, -, -, hch, hbusy, -⟩, -, -⟩ := regWrite_frame x w.data s.regs
    exact .hold (by rw [hregs, hbusy]) (by rw [hregs, hch]) (by rw [hresp]; rfl)
  · exact .hold (by rw [hregs]) (by rw [hregs]) (by rw [hresp]; rfl)
  · exact exec_tick_adcMove htick

/-- The channel advance is the successor of the conversion's number (R76). -/
theorem channelOf_next (n : Nat) : (channelOf n).next = channelOf (n + 1) := by
  have hn : n % 3 = 0 ∨ n % 3 = 1 ∨ n % 3 = 2 := by omega
  rcases hn with h | h | h <;> simp [channelOf, Nat.add_mod, h, Channel.next]

/-- A move of the cycle keeps `BUSY` and `CH` what the events so far make them: a start begins the cycle, and a completion adds
one turn to it. -/
theorem AdcMove.adcSoFar {r q : Regs} {es emitted : List Event} (h : AdcMove r q es) (hr : AdcSoFar emitted r) :
    AdcSoFar (emitted ++ es) q := by
  cases h with
  | hold busy_kept ch_kept silent =>
    simpa [AdcSoFar, List.filter_append, busy_kept, ch_kept, silent] using hr
  | start idle busy_set ch_kept started =>
    rcases hr with ⟨-, hch, hnone⟩ | ⟨hbusy, -⟩
    · exact .inr ⟨busy_set, 0, ch_kept.trans hch, by rw [List.filter_append, hnone, started, hch]; rfl⟩
    · exact absurd (idle.symm.trans hbusy) Bool.false_ne_true
  | complete in_flight busy_set ch_next restarted =>
    rcases hr with ⟨hidle, -⟩ | ⟨-, n, hch, hcycle⟩
    · exact absurd (hidle.symm.trans in_flight) Bool.false_ne_true
    · rw [hch, channelOf_next] at ch_next restarted
      exact .inr ⟨busy_set, n + 1, ch_next, by rw [List.filter_append, hcycle, restarted]; rfl⟩

theorem adcSoFar_reset : AdcSoFar [] Regs.reset := .inl ⟨rfl, rfl, rfl⟩

/-- The step lemma carried over a run. -/
theorem run_adcSoFar (ws : List OpWord) {s : State} {emitted : List Event} (h : AdcSoFar emitted s.regs) :
    AdcSoFar (emitted ++ trace s ws) (finalState s ws).regs := by
  induction ws generalizing s emitted with
  | nil => simpa using h
  | cons w ws ih =>
    obtain ⟨t, hstep, -⟩ := step_present_cases s w
    rw [trace_cons hstep, finalState_cons hstep, ← List.append_assoc]
    exact ih ((step_adcMove hstep).adcSoFar h)

/-- The event at place `k` of the channel cycle: starts at even places, reads at odd ones (R71). -/
def adcEventAt (k : Nat) : Event := if k % 2 = 0 then .adcStart (channelOf (k / 2)) else .adcRead

theorem adcEventAt_even (n : Nat) : adcEventAt (2 * n) = .adcStart (channelOf n) := by
  simp [adcEventAt]

theorem adcEventAt_odd (n : Nat) : adcEventAt (2 * n + 1) = .adcRead := by
  simp [adcEventAt, Nat.add_mod]

theorem adcCycle_eq_map (n : Nat) : adcCycle n = (List.range (2 * n + 1)).map adcEventAt := by
  induction n with
  | zero => rfl
  | succ n ih =>
    rw [adcCycle, ih, List.range_succ (n := 2 * (n + 1)), show 2 * (n + 1) = 2 * n + 1 + 1 from rfl,
      List.range_succ (n := 2 * n + 1), List.map_append, List.map_append, List.append_assoc, List.map_singleton,
      List.map_singleton, adcEventAt_odd, show 2 * n + 1 + 1 = 2 * (n + 1) from rfl, adcEventAt_even]
    rfl

/-- The ADC events of a history that explains `BUSY` and `CH` alternate in round-robin order. -/
theorem eq_adcEventAt_of_adcSoFar {emitted : List Event} {r : Regs} (h : AdcSoFar emitted r) {k : Nat} {e : Event}
    (hk : (emitted.filter isAdc)[k]? = some e) : e = adcEventAt k := by
  rcases h with ⟨-, -, hnone⟩ | ⟨-, n, -, hcycle⟩
  · simp [hnone] at hk
  · rw [hcycle, adcCycle_eq_map, List.getElem?_map, Option.map_eq_some_iff] at hk
    obtain ⟨j, hj, rfl⟩ := hk
    obtain ⟨_, hkj⟩ := List.getElem?_eq_some_iff.mp hj
    rw [← hkj, List.getElem_range]

theorem adcRead_mem_iff (es : List Event) : Event.adcRead ∈ es ↔ Event.adcRead ∈ es.filter isAdc := by
  simp [List.mem_filter, isAdc]

/-- From the `n`-th channel on, a run reads the channels of the following conversions in order, one per completion. -/
theorem readChannels_eq_map (ws : List OpWord) {s : State} {n : Nat} (h : s.regs.ch = channelOf n) :
    ∃ m, readChannels s ws = (List.range' n m).map channelOf := by
  induction ws generalizing s n with
  | nil => exact ⟨0, rfl⟩
  | cons w ws ih =>
    obtain ⟨t, hstep, -⟩ := step_present_cases s w
    have hread := adcRead_mem_iff t.resp.events
    rw [readChannels_cons hstep]
    cases step_adcMove hstep with
    | hold _ ch_kept silent =>
      rw [silent] at hread
      simpa [hread] using ih (ch_kept.trans h)
    | start _ _ ch_kept started =>
      rw [started] at hread
      simpa [hread] using ih (ch_kept.trans h)
    | complete _ _ ch_next restarted =>
      rw [restarted] at hread
      obtain ⟨m, hm⟩ := ih (s := t) (n := n + 1) (by rw [ch_next, h, channelOf_next])
      exact ⟨m + 1, by simp [hread, hm, h, List.range'_succ]⟩

/-- Settles O56: every word moves the channel cycle and so keeps what explains `BUSY` and `CH`; over a run from reset this gives
the ADC events, and the same moves, counted from the first channel, give the channels read. -/
theorem channelsAreSampledRoundRobin : Obligations.ChannelsAreSampledRoundRobin := by
  refine ⟨fun s t w emitted h hstep => (step_adcMove hstep).adcSoFar h,
    fun p ws => ⟨fun k e hk => ?events, fun k c hk => ?reads⟩⟩
  case events => exact eq_adcEventAt_of_adcSoFar (run_adcSoFar (s := State.resetWith p) ws adcSoFar_reset) hk
  case reads =>
    obtain ⟨m, hm⟩ := readChannels_eq_map (s := State.resetWith p) (n := 0) ws rfl
    rw [hm, List.getElem?_map, Option.map_eq_some_iff] at hk
    obtain ⟨j, hj, rfl⟩ := hk
    obtain ⟨_, hkj⟩ := List.getElem?_eq_some_iff.mp hj
    rw [← hkj, List.getElem_range']
    simp

end Sys2Proof.Proofs

namespace Sys2Proof.Proofs

open Sys2Proof.Machine Sys2Proof.Safety

/-! ### The duty (R84, R85) -/

theorem word_toNat_pos {m : Word} (hm : m ≠ 0) : 0 < m.toNat :=
  Nat.pos_of_ne_zero fun h => hm (BitVec.eq_of_toNat_eq h)

theorem dutyOverflows_iff {sp m d : Word} (hm : m ≠ 0) :
    dutyOverflows (dutyFull sp m d) = true ↔ 65536 * m.toNat ≤ sp.toNat * d.toNat := by
  rw [dutyOverflows, decide_eq_true_iff, dutyFull_toNat, dutyQuotient, Nat.le_div_iff_mul_le (word_toNat_pos hm)]
  exact Iff.rfl

/-- A monotone numerator over one divisor. -/
theorem dutyFull_mono {sp sp' d d' : Word} (m : Word) (hsp : sp.toNat ≤ sp'.toNat) (hd : d.toNat ≤ d'.toNat) :
    (dutyFull sp m d).toNat ≤ (dutyFull sp' m d').toNat := by
  rw [dutyFull_toNat, dutyFull_toNat]
  exact Nat.div_le_div_right (Nat.mul_le_mul hsp hd)

/-- No divisor makes the duty larger than the divisor 1 does. -/
theorem dutyFull_le_max (sp m d : Word) : (dutyFull sp m d).toNat ≤ 0xFFFE0001 := by
  rw [dutyFull_toNat]
  exact (Nat.div_le_self _ _).trans (word_mul_le sp d)

/-- A voltage duty of `PSET0`. -/
theorem dutyFull_pset0_voltage (sp : Word) : (dutyFull sp 0x8C00#16 0x2000#16).toNat = sp.toNat * 8192 / 35840 :=
  dutyFull_toNat sp _ _

/-- A current duty of `PSET0`. -/
theorem dutyFull_pset0_current (sp : Word) : (dutyFull sp 0x0C00#16 0x2000#16).toNat = sp.toNat * 8192 / 3072 :=
  dutyFull_toNat sp _ _

/-- Settles O41: every bound is one of the floor division that `dutyFull_toNat` makes of the two steps of R84. -/
theorem dutyBounds : Obligations.DutyBounds := by
  refine ⟨fun sp m d hm => ⟨?floor, ?ceiling, dutyFull_le_max sp m d, dutyOverflows_iff hm⟩,
    fun sp sp' m d d' _ hsp hd => dutyFull_mono m hsp hd, ?max, ?fiveVolts, ?oneStepUp, fun sp => ?voltageMax, ?voltageMaxReached,
    fun sp => ?currentOverflow, ?currentFirst, ?currentLast, fun sp => ?currentMax, ?currentMaxReached, ?currentKept⟩
  case floor => rw [dutyFull_toNat]; exact Nat.div_mul_le_self _ _
  case ceiling =>
    rw [dutyFull_toNat, Nat.mul_comm _ m.toNat]
    exact Nat.lt_mul_div_succ _ (word_toNat_pos hm)
  case voltageMax => have := sp.isLt; rw [dutyFull_pset0_voltage]; omega
  case currentMax => have := sp.isLt; rw [dutyFull_pset0_current]; omega
  case currentOverflow =>
    rw [dutyOverflows_iff (by decide), BitVec.toNat_ofNat, BitVec.toNat_ofNat]
    omega
  case max | voltageMaxReached | currentFirst | currentLast | currentMaxReached => rw [dutyFull_toNat]; rfl
  case fiveVolts | oneStepUp | currentKept => rw [duty16_eq]; rfl

/-! ### The micro-operations of SPC run on their own (log 7) -/

theorem exec_progV (s : State) : exec .progV s = .next (progV s.start) := rfl
theorem exec_progI (s : State) : exec .progI s = .next (progI s.start) := rfl
theorem exec_spEnable (s : State) : exec .spEnable s = .next (spEnable s.start) := rfl
theorem exec_spDisable (s : State) : exec .spDisable s = .next (spDisable s.start) := rfl
theorem exec_spReconcile (s : State) : exec .spReconcile s = .next (spReconcile s.start) := rfl

/-- Settles O42: the closed forms of `PROG.V` and `PROG.I`, at the start of an operation. -/
theorem programmingAChannelStoresAndDrives : Obligations.ProgrammingAChannelStoresAndDrives := by
  intro s
  refine ⟨⟨_, exec_progV s, ?voltage⟩, ⟨_, exec_progI s, ?current⟩⟩
  case voltage => rw [progV_eq_doing]; exact acts_start_doing s _ _
  case current => rw [progI_eq_doing]; exact acts_start_doing s _ _

/-- `SP.ENABLE` (R89): both channels are programmed, whatever was applied before, and then the output is enabled. -/
theorem spEnable_eq_doing (s : State) :
    spEnable s = s.doing { s.regs with
      dutyV := BitVec.ofNat 16 (voltageDuty s.params s.regs.cfgVset)
      dutyI := BitVec.ofNat 16 (currentDuty s.params s.regs.cfgCset)
      applVset := s.regs.cfgVset
      applCset := s.regs.cfgCset
      outOn := true
      dutyOvf := s.regs.dutyOvf || decide (65536 ≤ voltageDuty s.params s.regs.cfgVset) ||
        decide (65536 ≤ currentDuty s.params s.regs.cfgCset) }
      [.drive .voltage (BitVec.ofNat 16 (voltageDuty s.params s.regs.cfgVset)),
        .drive .current (BitVec.ofNat 16 (currentDuty s.params s.regs.cfgCset)), .outEn true] := by
  rw [spEnable, progV_eq_doing, progI_eq_doing, State.withRegs_eq_doing, State.emit_eq_doing, State.doing_doing,
    State.doing_doing, State.doing_doing]
  rfl

theorem spcStep_of_off_requested {s : State} (hen : s.regs.cfgEn = true) (hon : s.regs.outOn = false) :
    spcStep s = spEnable s := by
  simp [spcStep, hen, hon]

theorem spcStep_of_on_unrequested {s : State} (hen : s.regs.cfgEn = false) (hon : s.regs.outOn = true) :
    spcStep s = spDisable s := by
  simp [spcStep, hen, hon]

theorem spcStep_of_on_requested {s : State} (hen : s.regs.cfgEn = true) (hon : s.regs.outOn = true) :
    spcStep s = spReconcile s := by
  simp [spcStep, hen, hon]

/-- Settles O43: the selection of R88, and the closed form of `SP.ENABLE` at the start of an operation. -/
theorem enableProgramsBothDutiesThenEnables : Obligations.EnableProgramsBothDutiesThenEnables := by
  intro s
  refine ⟨spcStep_of_off_requested, _, exec_spEnable s, ?acts⟩
  case acts => rw [spEnable_eq_doing]; exact acts_start_doing s _ _

theorem spDisable_eq_doing (s : State) :
    spDisable s = s.doing { s.regs with outOn := false, dutyV := 0, dutyI := 0, applVset := 0, applCset := 0 }
      [.outEn false, .drive .voltage 0, .drive .current 0] := by
  rw [spDisable_spec, State.withRegs_eq_doing, State.emit_eq_doing, State.emit_eq_doing, State.emit_eq_doing,
    State.doing_doing, State.doing_doing, State.doing_doing]
  rfl

/-- Settles O44: the selection of R88, and the closed form of `SP.DISABLE` at the start of an operation. -/
theorem disableDeassertsThenClears : Obligations.DisableDeassertsThenClears := by
  intro s
  refine ⟨spcStep_of_on_unrequested, _, exec_spDisable s, ?acts⟩
  case acts => rw [spDisable_eq_doing]; exact acts_start_doing s _ _

/-- Recording a target that is already the set-point applied changes nothing. -/
theorem record_applVset {r : Regs} (h : r.cfgVset = r.applVset) : { r with applVset := r.cfgVset } = r :=
  congrArg (fun v => { r with applVset := v }) h

theorem record_applCset {r : Regs} (h : r.cfgCset = r.applCset) : { r with applCset := r.cfgCset } = r :=
  congrArg (fun v => { r with applCset := v }) h

/-- The voltage half of `SP.RECONCILE` (R91): after it the target is the set-point applied, in either case. -/
theorem reconcileV_eq_doing (s : State) :
    reconcileV s = s.doing { s.regs with
      dutyV := if s.regs.cfgVset = s.regs.applVset then s.regs.dutyV
        else BitVec.ofNat 16 (voltageDuty s.params s.regs.cfgVset)
      applVset := s.regs.cfgVset
      dutyOvf := s.regs.dutyOvf ||
        (decide (s.regs.cfgVset ≠ s.regs.applVset) && decide (65536 ≤ voltageDuty s.params s.regs.cfgVset)) }
      (if s.regs.cfgVset = s.regs.applVset then []
        else [.drive .voltage (BitVec.ofNat 16 (voltageDuty s.params s.regs.cfgVset))]) := by
  by_cases h : s.regs.cfgVset = s.regs.applVset
  · rw [reconcileV, if_neg (not_not.mpr h), if_pos h, if_pos h, decide_eq_false (not_not.mpr h), Bool.false_and,
      Bool.or_false, record_applVset h, State.doing_nil]
  · simp [reconcileV, h, progV_eq_doing]

/-- The current half of `SP.RECONCILE` (R91). -/
theorem reconcileI_eq_doing (s : State) :
    reconcileI s = s.doing { s.regs with
      dutyI := if s.regs.cfgCset = s.regs.applCset then s.regs.dutyI
        else BitVec.ofNat 16 (currentDuty s.params s.regs.cfgCset)
      applCset := s.regs.cfgCset
      dutyOvf := s.regs.dutyOvf ||
        (decide (s.regs.cfgCset ≠ s.regs.applCset) && decide (65536 ≤ currentDuty s.params s.regs.cfgCset)) }
      (if s.regs.cfgCset = s.regs.applCset then []
        else [.drive .current (BitVec.ofNat 16 (currentDuty s.params s.regs.cfgCset))]) := by
  by_cases h : s.regs.cfgCset = s.regs.applCset
  · rw [reconcileI, if_neg (not_not.mpr h), if_pos h, if_pos h, decide_eq_false (not_not.mpr h), Bool.false_and,
      Bool.or_false, record_applCset h, State.doing_nil]
  · simp [reconcileI, h, progI_eq_doing]

/-- Settles O45: the selection of R88, and the two halves of `SP.RECONCILE` one after the other; the voltage half writes nothing
that the current half reads. -/
theorem reconcileReprogramsChangedTargets : Obligations.ReconcileReprogramsChangedTargets := by
  intro s
  refine ⟨spcStep_of_on_requested, _, exec_spReconcile s, ?acts⟩
  case acts =>
    rw [spReconcile, reconcileV_eq_doing, reconcileI_eq_doing, State.doing_doing]
    exact acts_start_doing s _ _

/-! ### The transition table of the enable/disable FSM (R93) -/

/-- The events of a tick to the drive and the output enable: the row of the table that `OUT_ON` and `CFG_EN` select (R93). -/
def setpointEvents (p : Config.Params) (r : Regs) : List Event :=
  match r.outOn, r.cfgEn with
  | false, false => []
  | false, true => [.drive .voltage (BitVec.ofNat 16 (voltageDuty p r.cfgVset)),
      .drive .current (BitVec.ofNat 16 (currentDuty p r.cfgCset)), .outEn true]
  | true, true =>
      (if r.cfgVset = r.applVset then [] else [.drive .voltage (BitVec.ofNat 16 (voltageDuty p r.cfgVset))]) ++
      (if r.cfgCset = r.applCset then [] else [.drive .current (BitVec.ofNat 16 (currentDuty p r.cfgCset))])
  | true, false => [.outEn false, .drive .voltage 0, .drive .current 0]

/-- Each way SPC can act is a row of the table. -/
theorem setpointEvents_of_spcDoes {p : Config.Params} {r q : Regs} {es : List Event} (h : SpcDoes p r q es) :
    q.outOn = r.cfgEn ∧ es = setpointEvents p r := by
  rcases h with ⟨hen, hon, rfl, rfl⟩ | ⟨hen, hon, rfl, rfl⟩ | ⟨hen, hon, rfl, rfl⟩ | ⟨hen, hon, hv, hi, rfl, rfl⟩ |
    ⟨hen, hon, hv, hi, rfl, rfl⟩ | ⟨hen, hon, hv, hi, rfl, rfl⟩ | ⟨hen, hon, hv, hi, rfl, rfl⟩
  · simp [setpointEvents, hen, hon]
  · simp [setpointEvents, hen, hon]
  · simp [setpointEvents, hen, hon]
  all_goals simp [setpointEvents, hen, hon, hv, hi]

/-- The row and its events depend on nothing that SEQ writes. -/
theorem setpointEvents_congr (p : Config.Params) {r q : Regs} (hhost : SameHostRegs r q) (hspc : SameSpcRegs r q) :
    setpointEvents p q = setpointEvents p r := by
  obtain ⟨hen, hvset, hcset, -⟩ := hhost
  obtain ⟨hon, -, -, hvappl, hcappl⟩ := hspc
  rw [setpointEvents, hen, hvset, hcset, hon, hvappl, hcappl]
  rfl

/-- The SPC part of a tick: it stands last in the response, after events that are none of its own, and it starts from registers
in which SEQ has changed nothing of the host or of SPC (R26, R102). -/
theorem exec_tick_spcDoes {rdy cc aux : Bool} {raw : Sample} {s t : State} (h : exec (.tick rdy cc aux raw) s = .next t) :
    ∃ q seq spc, t.resp.events = seq ++ spc ∧ seq.filter isSpc = [] ∧ SpcDoes s.params q t.regs spc ∧
      SameHostRegs s.regs q ∧ SameSpcRegs s.regs q := by
  obtain ⟨q, r, adc, spc, hadc, hspc, htick⟩ := exec_tick_spec rdy cc aux raw s
  cases htick.symm.trans h
  obtain ⟨hhost, hown, -⟩ := hadc.frame
  obtain ⟨hdiag, -, -⟩ := diagEvents_filters aux s.regs
  exact ⟨_, adc ++ diagEvents aux s.regs, spc, rfl, by rw [List.filter_append, hadc.no_spc_event, hdiag]; rfl, hspc,
    hhost, hown⟩

/-- Settles O47: a tick's SPC events are those of the row that the registers at its start select, since SEQ writes nothing that
the selection or the row looks at. -/
theorem setpointTransitionTable : Obligations.SetpointTransitionTable := by
  refine ⟨fun p => rfl, fun s rdy cc aux raw => ?tick⟩
  case tick =>
    have htick := exec_tick rdy cc aux raw s
    obtain ⟨q, seq, spc, hevents, hseq, hspc, hhost, hown⟩ := exec_tick_spcDoes htick
    obtain ⟨honNext, rfl⟩ := setpointEvents_of_spcDoes hspc
    obtain ⟨hspcOnly, -, -⟩ := hspc.only_spc_events
    refine ⟨_, htick, honNext.trans hhost.left, ?_⟩
    rw [hevents, List.filter_append, hseq, hspcOnly, List.nil_append, setpointEvents_congr s.params hhost hown]
    rfl

end Sys2Proof.Proofs

namespace Sys2Proof.Proofs

open Sys2Proof.Machine Sys2Proof.Safety

/-! ### What one word can do to the output (R88 to R94) -/

/-- What one word can do to the output, as far as `OUT_ON` and the SPC events show it: nothing but reprogramming while it is on,
the enabling of R89, or the disabling of R90. `seq` stands for what SEQ emitted before. -/
inductive OutputMove (r q : Regs) (events : List Event) : Prop
  | hold (kept : q.outOn = r.outOn) (no_switch : events.filterMap outEnLevel = [])
      (off_silent : r.outOn = false → events.filter isSpc = [])
  | enable (was_off : r.outOn = false) (now_on : q.outOn = true) (seq : List Event) (seq_silent : seq.filter isSpc = [])
      (v i : Word) (emitted : events = seq ++ [.drive .voltage v, .drive .current i, .outEn true])
  | disable (was_on : r.outOn = true) (now_off : q.outOn = false) (seq : List Event) (seq_silent : seq.filter isSpc = [])
      (emitted : events = seq ++ [.outEn false, .drive .voltage 0, .drive .current 0])

/-- Only SPC switches the output. -/
theorem filterMap_outEnLevel_of_silent {es : List Event} (h : es.filter isSpc = []) : es.filterMap outEnLevel = [] := by
  rw [List.filter_eq_nil_iff] at h
  rw [List.filterMap_eq_nil_iff]
  intro e he
  cases e with
  | outEn level => exact absurd rfl (h _ he)
  | _ => rfl

theorem outEn_notMem_of_no_switch {es : List Event} (h : es.filterMap outEnLevel = []) (level : Bool) :
    .outEn level ∉ es := by
  intro hmem
  simpa [outEnLevel] using List.filterMap_eq_nil_iff.mp h _ hmem

/-- The SPC part of a tick moves the output. -/
theorem outputMove_of_spcDoes {p : Config.Params} {r q : Regs} {es : List Event} (h : SpcDoes p r q es) :
    OutputMove r q es := by
  rcases h with ⟨-, -, rfl, rfl⟩ | ⟨-, hon, rfl, rfl⟩ | ⟨-, hon, rfl, rfl⟩ | ⟨-, -, -, -, rfl, rfl⟩ |
    ⟨-, hon, -, -, rfl, rfl⟩ | ⟨-, hon, -, -, rfl, rfl⟩ | ⟨-, hon, -, -, rfl, rfl⟩
  · exact .hold rfl rfl fun _ => rfl
  · exact .enable hon rfl [] rfl _ _ rfl
  · exact .disable hon rfl [] rfl rfl
  · exact .hold rfl rfl fun _ => rfl
  all_goals exact .hold rfl rfl fun hoff => absurd (hon.symm.trans hoff) Bool.false_ne_true.symm

/-- What SEQ does before does not change the move: it leaves `OUT_ON` and emits no SPC event. -/
theorem OutputMove.after_seq {r r' q : Regs} {seq es : List Event} (h : OutputMove r' q es) (hon : r'.outOn = r.outOn)
    (hseq : seq.filter isSpc = []) : OutputMove r q (seq ++ es) := by
  cases h with
  | hold kept no_switch off_silent =>
    refine .hold (kept.trans hon) ?_ fun hoff => ?_
    · rw [List.filterMap_append, filterMap_outEnLevel_of_silent hseq, no_switch]; rfl
    · rw [List.filter_append, hseq, off_silent (hon.trans hoff)]; rfl
  | enable was_off now_on seq' seq_silent v i emitted =>
    refine .enable (hon.symm.trans was_off) now_on (seq ++ seq') ?_ v i (by rw [emitted, List.append_assoc])
    rw [List.filter_append, hseq, seq_silent]; rfl
  | disable was_on now_off seq' seq_silent emitted =>
    refine .disable (hon.symm.trans was_on) now_off (seq ++ seq') ?_ (by rw [emitted, List.append_assoc])
    rw [List.filter_append, hseq, seq_silent]; rfl

/-- Every word moves the output, in every state; only a TICK does anything to it. -/
theorem step_outputMove {s t : State} {w : OpWord} (h : step (s.present w) = .next t) :
    OutputMove s.regs t.regs t.resp.events := by
  obtain ⟨t', hstep, -, -, hcases⟩ := step_present_cases s w
  cases hstep.symm.trans h
  rcases hcases with ⟨-, hregs, hevents, -⟩ | ⟨-, x, -, -, -, hregs, hresp⟩ | ⟨-, hregs, hresp⟩ | ⟨-, -, htick⟩
  · rw [hregs, hevents]; exact .hold rfl rfl fun _ => rfl
  · obtain ⟨-, ⟨hon, -⟩, -⟩ := regWrite_frame x w.data s.regs
    rw [hregs, hresp]; exact .hold hon rfl fun _ => rfl
  · rw [hregs, hresp]; exact .hold rfl rfl fun _ => rfl
  · obtain ⟨q, seq, spc, hevents, hseq, hspc, -, ⟨hon, -⟩⟩ := exec_tick_spcDoes htick
    rw [hevents]
    exact (outputMove_of_spcDoes hspc).after_seq hon hseq

/-- A word that finds the output off and leaves it off emits nothing to the drive or the output enable. -/
theorem OutputMove.silent_of_off {r q : Regs} {es : List Event} (h : OutputMove r q es) (hr : r.outOn = false)
    (hq : q.outOn = false) : es.filter isSpc = [] := by
  cases h with
  | hold _ _ off_silent => exact off_silent hr
  | enable _ now_on => exact absurd (hq.symm.trans now_on) Bool.false_ne_true
  | disable was_on => exact absurd (hr.symm.trans was_on) Bool.false_ne_true

/-! ### Where an `OUT_EN` stands in a response (R94) -/

/-- An enabling ends the response, right after the two duties. -/
theorem OutputMove.drives_before_enable {r q : Regs} {es before after : List Event} (h : OutputMove r q es)
    (hes : es = before ++ .outEn true :: after) : ∃ b v i, before = b ++ [.drive .voltage v, .drive .current i] := by
  cases h with
  | hold _ no_switch => exact absurd (by simp [hes]) (outEn_notMem_of_no_switch no_switch true)
  | enable _ _ seq seq_silent v i emitted =>
    have hnone := outEn_notMem_of_no_switch (filterMap_outEnLevel_of_silent seq_silent)
    have hplace : (seq ++ [.drive .voltage v, .drive .current i]) ++ .outEn true :: [] = before ++ .outEn true :: after := by
      rw [← hes, emitted, List.append_assoc]; rfl
    obtain ⟨rfl, -⟩ := (List.append_cons_inj_of_notMem (by simp [hnone]) (by simp)).mp hplace
    exact ⟨seq, v, i, rfl⟩
  | disable _ _ seq seq_silent emitted =>
    have hmem : Event.outEn true ∈ es := by simp [hes]
    have hnone := outEn_notMem_of_no_switch (filterMap_outEnLevel_of_silent seq_silent)
    simp [emitted, hnone] at hmem

/-- A disabling leaves the output off, and the two zero duties end the response. -/
theorem OutputMove.zeroes_after_disable {r q : Regs} {es before after : List Event} (h : OutputMove r q es)
    (hes : es = before ++ .outEn false :: after) :
    q.outOn = false ∧ after = [.drive .voltage 0, .drive .current 0] := by
  cases h with
  | hold _ no_switch => exact absurd (by simp [hes]) (outEn_notMem_of_no_switch no_switch false)
  | enable _ _ seq seq_silent v i emitted =>
    have hmem : Event.outEn false ∈ es := by simp [hes]
    have hnone := outEn_notMem_of_no_switch (filterMap_outEnLevel_of_silent seq_silent)
    simp [emitted, hnone] at hmem
  | disable _ now_off seq seq_silent emitted =>
    have hnone := outEn_notMem_of_no_switch (filterMap_outEnLevel_of_silent seq_silent)
    obtain ⟨-, -, rfl⟩ := (List.append_cons_inj_of_notMem (hnone false) (by simp)).mp (emitted.symm.trans hes)
    exact ⟨now_off, rfl⟩

/-- Every response of a run is that of a word presented to some state. -/
theorem exists_step_of_mem_responses {ws : List OpWord} {s : State} {a : Response} (h : a ∈ responses s ws) :
    ∃ (u t : State) (w : OpWord), step (u.present w) = .next t ∧ a = t.resp := by
  induction ws generalizing s with
  | nil => exact absurd h List.not_mem_nil
  | cons w ws ih =>
    obtain ⟨t, hstep, -⟩ := step_present_cases s w
    rw [responses_cons hstep] at h
    rcases List.mem_cons.mp h with rfl | hlater
    · exact ⟨s, t, w, hstep, rfl⟩
    · exact ih hlater

/-! ### The alternation of the levels over a run (R94) -/

/-- A switch to the level that the output does not have is the next turn of the alternation. -/
theorem outEnSoFar_switch {emitted es : List Event} {r q : Regs} (h : OutEnSoFar emitted r)
    (hlevel : es.filterMap outEnLevel = [q.outOn]) (hswitch : q.outOn = !r.outOn) : OutEnSoFar (emitted ++ es) q := by
  obtain ⟨n, hlevels, hon⟩ := h
  have hnext : q.outOn = decide (n % 2 = 0) := by
    rw [hswitch, hon, ← decide_not, decide_eq_decide]
    omega
  refine ⟨n + 1, ?levels, ?last⟩
  case levels => rw [List.filterMap_append, hlevels, hlevel, hnext, List.range_succ, List.map_append]; rfl
  case last =>
    rw [hnext, decide_eq_decide]
    omega

/-- A move of the output keeps `OUT_ON` what the levels so far make it. -/
theorem OutputMove.outEnSoFar {r q : Regs} {es emitted : List Event} (h : OutputMove r q es) (hr : OutEnSoFar emitted r) :
    OutEnSoFar (emitted ++ es) q := by
  cases h with
  | hold kept no_switch => simpa [OutEnSoFar, List.filterMap_append, kept, no_switch] using hr
  | enable was_off now_on seq seq_silent v i emitted' =>
    refine outEnSoFar_switch hr ?_ (by rw [now_on, was_off]; rfl)
    rw [emitted', List.filterMap_append, filterMap_outEnLevel_of_silent seq_silent, now_on]; rfl
  | disable was_on now_off seq seq_silent emitted' =>
    refine outEnSoFar_switch hr ?_ (by rw [now_off, was_on]; rfl)
    rw [emitted', List.filterMap_append, filterMap_outEnLevel_of_silent seq_silent, now_off]; rfl

theorem outEnSoFar_reset : OutEnSoFar [] Regs.reset := ⟨0, rfl, rfl⟩

/-- The step lemma carried over a run. -/
theorem run_outEnSoFar (ws : List OpWord) {s : State} {emitted : List Event} (h : OutEnSoFar emitted s.regs) :
    OutEnSoFar (emitted ++ trace s ws) (finalState s ws).regs := by
  induction ws generalizing s emitted with
  | nil => simpa using h
  | cons w ws ih =>
    obtain ⟨t, hstep, -⟩ := step_present_cases s w
    rw [trace_cons hstep, finalState_cons hstep, ← List.append_assoc]
    exact ih ((step_outputMove hstep).outEnSoFar h)

/-- The levels of a history that explains `OUT_ON` alternate from 1 on. -/
theorem level_of_outEnSoFar {emitted : List Event} {r : Regs} (h : OutEnSoFar emitted r) {k : Nat} {level : Bool}
    (hk : (emitted.filterMap outEnLevel)[k]? = some level) : level = decide (k % 2 = 0) := by
  obtain ⟨n, hlevels, -⟩ := h
  rw [hlevels, List.getElem?_map, Option.map_eq_some_iff] at hk
  obtain ⟨j, hj, rfl⟩ := hk
  obtain ⟨_, hkj⟩ := List.getElem?_eq_some_iff.mp hj
  rw [← hkj, List.getElem_range]

/-! ### Duties driven while the output is off (R94) -/

/-- What follows a duty of the pair that precedes an enabling: the enabling, or the other duty and the enabling. -/
def EnablesNext (after : List Event) : Prop :=
  (∃ a, after = .outEn true :: a) ∨ (∃ i a, after = .drive .current i :: .outEn true :: a)

/-- The events `es`, emitted from an output that is off, drive no duty but 0 until they switch it, except the pair that precedes
the enabling. -/
def DrivesOnlyToEnable (es : List Event) : Prop :=
  ∀ between after ch duty, es = between ++ .drive ch duty :: after → (∀ level, .outEn level ∉ between) → duty ≠ 0 →
    EnablesNext after

/-- The event in front: if it is a duty that is not 0, the enabling follows; and unless it is itself a switch, the events after
it are held to the same. -/
theorem drivesOnlyToEnable_cons {e : Event} {es : List Event}
    (hfront : ∀ ch duty, e = .drive ch duty → duty ≠ 0 → EnablesNext es)
    (hrest : (∀ level, e ≠ .outEn level) → DrivesOnlyToEnable es) : DrivesOnlyToEnable (e :: es) := by
  intro between after ch duty hes hnone hduty
  cases between with
  | nil =>
    obtain ⟨rfl, rfl⟩ := List.cons.inj hes
    exact hfront ch duty rfl hduty
  | cons e' between' =>
    obtain ⟨rfl, hes'⟩ := List.cons.inj hes
    refine hrest (fun level he => hnone level (by simp [he])) between' after ch duty hes' (fun level hmem => ?_) hduty
    exact hnone level (List.mem_cons_of_mem _ hmem)

theorem drivesOnlyToEnable_nil : DrivesOnlyToEnable [] := by
  intro between after ch duty hes
  exact absurd hes.symm (by simp)

/-- After a switch the condition says nothing. -/
theorem drivesOnlyToEnable_outEn (level : Bool) (es : List Event) : DrivesOnlyToEnable (.outEn level :: es) :=
  drivesOnlyToEnable_cons nofun fun hne => absurd rfl (hne level)

/-- A zero duty is always allowed. -/
theorem drivesOnlyToEnable_drive_zero (ch : DriveChannel) {es : List Event} (h : DrivesOnlyToEnable es) :
    DrivesOnlyToEnable (.drive ch 0 :: es) :=
  drivesOnlyToEnable_cons (fun _ _ he hne => absurd (Event.drive.inj he).2.symm hne) fun _ => h

/-- The pair before an enabling is allowed, whatever its duties. -/
theorem drivesOnlyToEnable_pair (v i : Word) (es : List Event) :
    DrivesOnlyToEnable (.drive .voltage v :: .drive .current i :: .outEn true :: es) :=
  drivesOnlyToEnable_cons (fun _ _ _ _ => .inr ⟨i, es, rfl⟩) fun _ =>
    drivesOnlyToEnable_cons (fun _ _ _ _ => .inl ⟨es, rfl⟩) fun _ => drivesOnlyToEnable_outEn true es

/-- Events that are none of SPC's make no difference. -/
theorem drivesOnlyToEnable_append {silent es : List Event} (hsilent : silent.filter isSpc = []) (h : DrivesOnlyToEnable es) :
    DrivesOnlyToEnable (silent ++ es) := by
  rw [List.filter_eq_nil_iff] at hsilent
  induction silent with
  | nil => exact h
  | cons e silent ih =>
    obtain ⟨hfront, hrest⟩ := List.forall_mem_cons.mp hsilent
    exact drivesOnlyToEnable_cons (fun _ _ he _ => absurd (by rw [he]; rfl) hfront) fun _ => ih hrest

/-- A run from a state whose output is off: silent words, up to the one that enables. -/
theorem trace_drivesOnlyToEnable (ws : List OpWord) {s : State} (hoff : s.regs.outOn = false) :
    DrivesOnlyToEnable (trace s ws) := by
  induction ws generalizing s with
  | nil => exact drivesOnlyToEnable_nil
  | cons w ws ih =>
    obtain ⟨t, hstep, -⟩ := step_present_cases s w
    rw [trace_cons hstep]
    cases step_outputMove hstep with
    | hold kept _ off_silent => exact drivesOnlyToEnable_append (off_silent hoff) (ih (kept.trans hoff))
    | enable _ _ seq seq_silent v i emitted =>
      rw [emitted, List.append_assoc]
      exact drivesOnlyToEnable_append seq_silent (drivesOnlyToEnable_pair v i _)
    | disable was_on => exact absurd (hoff.symm.trans was_on) Bool.false_ne_true

/-- From any state: after a disabling in the trace come the two zero duties and then a run from an output that is off. -/
theorem drivesOnlyToEnable_after_disable (ws : List OpWord) {s : State} {before rest : List Event}
    (h : trace s ws = before ++ .outEn false :: rest) : DrivesOnlyToEnable rest := by
  induction ws generalizing s before with
  | nil => exact absurd h.symm (by simp)
  | cons w ws ih =>
    obtain ⟨t, hstep, -⟩ := step_present_cases s w
    rw [trace_cons hstep, List.append_eq_append_iff] at h
    rcases h with ⟨before', -, hlater⟩ | ⟨after, hevents, hafter⟩
    · exact ih hlater
    · cases after with
      | nil => exact ih (before := []) hafter.symm
      | cons e after =>
        obtain ⟨rfl, rfl⟩ := List.cons.inj hafter
        obtain ⟨hoff, rfl⟩ := (step_outputMove hstep).zeroes_after_disable hevents
        exact drivesOnlyToEnable_drive_zero _ (drivesOnlyToEnable_drive_zero _ (trace_drivesOnlyToEnable ws hoff))

/-- Settles O57: every word moves the output, so it keeps what explains `OUT_ON`, and its response has an `OUT_EN` only in the
enabling and the disabling; over a run, what follows a disabling is a run from an output that is off. -/
theorem outputIsSwitchedInOrder : Obligations.OutputIsSwitchedInOrder := by
  refine ⟨fun s t w emitted h hstep => ⟨(step_outputMove hstep).outEnSoFar h, (step_outputMove hstep).silent_of_off⟩,
    fun p ws => ⟨fun a ha before after => ?response, fun k level hk => ?levels,
      fun before between after ch duty htrace => ?offDuties⟩⟩
  case response =>
    obtain ⟨u, t, w, hstep, rfl⟩ := exists_step_of_mem_responses ha
    refine ⟨(step_outputMove hstep).drives_before_enable, fun hevents => ?_⟩
    obtain ⟨-, hzeroes⟩ := (step_outputMove hstep).zeroes_after_disable hevents
    exact ⟨[], hzeroes⟩
  case levels => exact level_of_outEnSoFar (run_outEnSoFar (s := State.resetWith p) ws outEnSoFar_reset) hk
  case offDuties => exact drivesOnlyToEnable_after_disable ws htrace between after ch duty rfl

end Sys2Proof.Proofs

namespace Sys2Proof.Proofs

open Sys2Proof.Machine Sys2Proof.Safety

/-! ### The RD and WR words (R45, R46) -/

/-- Formats R and W have the same fields: `{KIND, 0, ADDR, DATA}`. -/
def accessWord (k : BitVec 2) (a : Addr) (d : Word) : OpWord := k ++ 0b0#1 ++ a ++ d

theorem rdWord_eq_accessWord (a : Addr) : rdWord a = accessWord 0b01#2 a 0 := rfl
theorem wrWord_eq_accessWord (a : Addr) (d : Word) : wrWord a d = accessWord 0b10#2 a d := rfl

theorem accessWord_toNat (k : BitVec 2) (a : Addr) (d : Word) :
    (accessWord k a d).toNat = k.toNat * 0x400000 + a.toNat * 65536 + d.toNat := by
  simp only [accessWord, toNat_append_eq_add, BitVec.toNat_ofNat]
  omega

@[simp] theorem accessWord_kind (k : BitVec 2) (a : Addr) (d : Word) : (accessWord k a d).kind = k := by
  unfold OpWord.kind accessWord
  iterate 2 rw [BitVec.extractLsb'_append_eq_of_le (by decide)]
  exact BitVec.extractLsb'_append_eq_left

@[simp] theorem accessWord_bit21 (k : BitVec 2) (a : Addr) (d : Word) : (accessWord k a d).bit21 = false := by
  unfold OpWord.bit21 accessWord
  iterate 3 rw [BitVec.getLsbD_append]
  simp

@[simp] theorem accessWord_addr (k : BitVec 2) (a : Addr) (d : Word) : (accessWord k a d).addr = a := by
  unfold OpWord.addr accessWord
  rw [BitVec.extractLsb'_append_eq_of_le (by decide)]
  exact BitVec.extractLsb'_append_eq_right

@[simp] theorem accessWord_data (k : BitVec 2) (a : Addr) (d : Word) : (accessWord k a d).data = d :=
  BitVec.extractLsb'_append_eq_right

theorem decode_rdWord (a : Addr) : decode (rdWord a) = .instr (decodeRd a) := by
  simp [rdWord_eq_accessWord, decode]

theorem decode_wrWord (a : Addr) (d : Word) : decode (wrWord a d) = .instr (decodeWr a d) := by
  simp [wrWord_eq_accessWord, decode]

theorem ofNat_eq_rdWord (a : Addr) : BitVec.ofNat 24 (0x400000 + a.toNat * 65536) = rdWord a := by
  have hnum : (rdWord a).toNat = 0x400000 + a.toNat * 65536 := accessWord_toNat 0b01#2 a 0
  rw [← hnum, BitVec.ofNat_toNat, BitVec.setWidth_eq]

theorem ofNat_eq_wrWord (a : Addr) (d : Word) :
    BitVec.ofNat 24 (0x800000 + a.toNat * 65536 + d.toNat) = wrWord a d := by
  have hnum : (wrWord a d).toNat = 0x800000 + a.toNat * 65536 + d.toNat := accessWord_toNat 0b10#2 a d
  rw [← hnum, BitVec.ofNat_toNat, BitVec.setWidth_eq]

/-! ### The answers to a host access (R98, R99, R110, R111) -/

theorem replies_hostRead (s : State) (x : Reg) : Replies s (s.hostRead x) s.regs ⟨regRead x s.regs, .ok, []⟩ :=
  ⟨rfl, rfl, rfl, rfl⟩

theorem replies_hostUnmapped (s : State) : Replies s s.hostUnmapped s.regs ⟨0, .unmapped, []⟩ :=
  ⟨rfl, rfl, rfl, rfl⟩

theorem replies_start_raiseBusError (s : State) (c : ECode) : Replies s (s.start.raiseBusError c) s.regs ⟨0, c, []⟩ :=
  ⟨rfl, rfl, rfl, rfl⟩

theorem replies_start_withRegs (s : State) (r : Regs) : Replies s (s.start.withRegs r) r ⟨0, .ok, []⟩ :=
  ⟨rfl, rfl, rfl, rfl⟩

/-- The address map leaves out exactly the six addresses of R32. -/
theorem regAt_eq_none_iff (a : Addr) : regAt a = none ↔ a ∈ unmappedAddrs := by decide +revert

theorem step_rdWord_of_mapped {a : Addr} {x : Reg} (h : regAt a = some x) (s : State) :
    step (s.present (rdWord a)) = .next (s.hostRead x) := by
  rw [step_present_instr (decode_rdWord a), exec_decodeRd, h]

theorem step_rdWord_of_unmapped {a : Addr} (h : regAt a = none) (s : State) :
    step (s.present (rdWord a)) = .next s.hostUnmapped := by
  rw [step_present_instr (decode_rdWord a), exec_decodeRd, h]

theorem step_wrWord_of_mapped {a : Addr} {x : Reg} (h : regAt a = some x) (d : Word) (s : State) :
    step (s.present (wrWord a d)) = .next (s.hostWrite x d) := by
  rw [step_present_instr (decode_wrWord a d), exec_decodeWr, h]

theorem step_wrWord_of_unmapped {a : Addr} (h : regAt a = none) (d : Word) (s : State) :
    step (s.present (wrWord a d)) = .next s.hostUnmapped := by
  rw [step_present_instr (decode_wrWord a d), exec_decodeWr, h]

/-- Settles O10: the word is the RD word of the address, which runs `RegRead` of the register there or answers the bus error;
`RegRead` is the table. -/
theorem readWordAnswersTable : Obligations.ReadWordAnswersTable := by
  intro s a
  rw [ofNat_eq_rdWord, readTable_eq]
  cases hreg : regAt a with
  | none => exact ⟨_, step_rdWord_of_unmapped hreg s, replies_hostUnmapped s⟩
  | some x =>
    refine ⟨_, step_rdWord_of_mapped hreg s, (regRead x s.regs).isLt, ?_⟩
    rw [BitVec.ofNat_toNat, BitVec.setWidth_eq]
    exact replies_hostRead s x

/-- Settles O11: the word is the WR word of the address; an unmapped address has no register, and the write of a register is
refused or is that of the table. -/
theorem writeWordActsByAccess : Obligations.WriteWordActsByAccess := by
  intro s a d
  rw [ofNat_eq_wrWord]
  cases hreg : regAt a with
  | none =>
    refine ⟨_, step_wrWord_of_unmapped hreg d s, ?_⟩
    rw [if_pos ((regAt_eq_none_iff a).mp hreg)]
    exact replies_hostUnmapped s
  | some x =>
    have hmapped : a ∉ unmappedAddrs := by rw [← regAt_eq_none_iff, hreg]; exact Option.some_ne_none x
    refine ⟨_, step_wrWord_of_mapped hreg d s, ?_⟩
    rw [if_neg hmapped]
    rcases hostWrite_cases s a x d hreg with ⟨hro, hrefused⟩ | ⟨hrw, r, htable, hwritten⟩
    · rw [if_pos hro, hrefused]
      exact replies_start_raiseBusError s .readOnly
    · rw [if_neg hrw, hwritten]
      exact ⟨r, htable, replies_start_withRegs s r⟩

/-! ### The two writes that keep only some bits (R100, R101) -/

theorem exec_wrCfgOutput (d : Word) (s : State) :
    exec (.wrCfgOutput d) s = .next (s.start.withRegs { s.regs with cfgEn := decide (d.toNat % 2 = 1) }) := by
  rw [← bit0_eq]; rfl

theorem exec_wrStatus (d : Word) (s : State) : exec (.wrStatus d) s = .next (s.start.withRegs (clearFlags d s.regs)) := rfl

theorem exec_rdCfgOutput (s : State) : exec .rdCfgOutput s = .next (s.hostRead .cfgOutput) := rfl

theorem bit_decide_odd (n : Nat) : bit (decide (n % 2 = 1)) = n % 2 := by
  rcases Nat.mod_two_eq_zero_or_one n with h | h <;> rw [h] <;> rfl

/-- `CFG_OUTPUT` reads as the bit that `CFG_EN` holds, every other bit 0 (R33). -/
theorem regRead_cfgOutput_of_bit0 (r : Regs) (n : Nat) :
    regRead .cfgOutput { r with cfgEn := decide (n % 2 = 1) } = BitVec.ofNat 16 (n % 2) := by
  apply BitVec.eq_of_toNat_eq
  calc (regRead .cfgOutput { r with cfgEn := decide (n % 2 = 1) }).toNat
      _ = bit (decide (n % 2 = 1)) := cfgOutput_toNat _
      _ = n % 2 := bit_decide_odd n
      _ = (BitVec.ofNat 16 (n % 2)).toNat := by rw [BitVec.toNat_ofNat]; omega

/-- Settles O20: the write is that of `CFG_EN` alone, and the read after it finds bit 0 there. -/
theorem outputRequestWriteKeepsBitZero : Obligations.OutputRequestWriteKeepsBitZero := by
  intro s d
  refine ⟨_, exec_wrCfgOutput d s, replies_start_withRegs s _, _, exec_rdCfgOutput _, ?readBack⟩
  case readBack => rw [State.hostRead, State.answer_resp, State.withRegs_regs, regRead_cfgOutput_of_bit0]

/-- Settles O21: `clearFlags`, flag by flag. -/
theorem statusWriteClearsSelectedFlags : Obligations.StatusWriteClearsSelectedFlags := by
  intro s d
  refine ⟨_, exec_wrStatus d s, ?_⟩
  rw [clearFlags_spec]
  exact replies_start_withRegs s _

/-! ### IDLE (R97) -/

theorem exec_idle (s : State) : exec .idle s = .next s.start := rfl

/-- Every operation forgets the response and the answer of the one before it (R10, R29). -/
theorem exec_start (i : Instr) (s : State) : exec i s.start = exec i s := by cases i <;> rfl

/-- So does every word. -/
theorem step_present_start (s : State) (w : OpWord) : step (s.start.present w) = step (s.present w) := by
  cases h : decode w with
  | instr i => rw [step_present_instr h, step_present_instr h, exec_start]
  | malformed why => rw [step_present_malformed h, step_present_malformed h]; rfl

theorem step_present_idle (s : State) : step (s.present 0x000000#24) = .next s.start :=
  step_present_instr (i := .idle) rfl

/-- A run does not see the response that its first state holds. -/
theorem run_start (s : State) (ws : List OpWord) :
    (finalState s.start ws).regs = (finalState s ws).regs ∧ trace s.start ws = trace s ws := by
  cases ws with
  | nil => exact ⟨rfl, rfl⟩
  | cons w ws =>
    obtain ⟨t, hstep, -⟩ := step_present_cases s w
    have hstart := (step_present_start s w).trans hstep
    rw [finalState_cons hstep, finalState_cons hstart, trace_cons hstep, trace_cons hstart]
    exact ⟨rfl, rfl⟩

/-- An IDLE word in front of a run. -/
theorem run_idle_cons (s : State) (ws : List OpWord) :
    (finalState s (0x000000#24 :: ws)).regs = (finalState s ws).regs ∧ trace s (0x000000#24 :: ws) = trace s ws := by
  have hidle := step_present_idle s
  rw [finalState_cons hidle, trace_cons hidle]
  exact run_start s ws

/-- Settles O23: by induction on the words; an IDLE word only empties the response, which the words after it do not see, and any
other word stays. -/
theorem idleIsInvisible : Obligations.IdleIsInvisible := by
  refine ⟨fun s => ⟨_, exec_idle s, ⟨rfl, rfl, rfl, rfl⟩⟩, fun s ws => ?run⟩
  case run =>
    induction ws generalizing s with
    | nil => exact ⟨rfl, rfl⟩
    | cons w ws ih =>
      by_cases hw : w = 0x000000#24
      · subst hw
        obtain ⟨hregs, htrace⟩ := run_idle_cons s ws
        rw [List.filter_cons_of_neg (by simp), hregs, htrace]
        exact ih s
      · obtain ⟨t, hstep, -⟩ := step_present_cases s w
        obtain ⟨hregs, htrace⟩ := ih t
        rw [List.filter_cons_of_pos (by simpa using hw), finalState_cons hstep, finalState_cons hstep, trace_cons hstep,
          trace_cons hstep, hregs, htrace]
        exact ⟨rfl, rfl⟩

/-! ### The three groups of a tick's events (R103) -/

/-- The ADC group, by `BUSY`, `RDY` and `CH`. -/
def AdcGroup (rdy : Bool) (r : Regs) (adc : List Event) : Prop :=
  (r.busy = false ∧ adc = [.adcStart r.ch]) ∨
  (r.busy = true ∧ rdy = false ∧ adc = []) ∨
  (r.busy = true ∧ rdy = true ∧ r.ch = .current ∧ adc = [.adcRead, .adcStart .voltageOut]) ∨
  (r.busy = true ∧ rdy = true ∧ r.ch = .voltageOut ∧ adc = [.adcRead, .adcStart .voltageIn]) ∨
  (r.busy = true ∧ rdy = true ∧ r.ch = .voltageIn ∧
    ∃ d3 d2 d1 d0, adc = [.adcRead, .display d3 d2 d1 d0, .adcStart .current])

/-- The SPC group, by `CFG_EN` and `OUT_ON`. -/
def SpcGroup (r : Regs) (spc : List Event) : Prop :=
  (r.cfgEn = false ∧ r.outOn = false ∧ spc = []) ∨
  (r.cfgEn = true ∧ r.outOn = false ∧ ∃ v i, spc = [.drive .voltage v, .drive .current i, .outEn true]) ∨
  (r.cfgEn = true ∧ r.outOn = true ∧ (spc = [] ∨ (∃ v, spc = [.drive .voltage v]) ∨
    (∃ i, spc = [.drive .current i]) ∨ ∃ v i, spc = [.drive .voltage v, .drive .current i])) ∨
  (r.cfgEn = false ∧ r.outOn = true ∧ spc = [.outEn false, .drive .voltage 0, .drive .current 0])

theorem adcGroup_of_adcDoes {rdy : Bool} {raw : Sample} {r q : Regs} {es : List Event} (h : AdcDoes rdy raw r q es) :
    AdcGroup rdy r es := by
  rcases h with ⟨hidle, -, hes⟩ | ⟨hbusy, hwait, -, hes⟩ | ⟨hbusy, hrdy, hch, hes, -⟩ | ⟨hbusy, hrdy, hch, hes, -⟩ |
    ⟨hbusy, hrdy, hch, hes, -⟩
  · exact .inl ⟨hidle, hes⟩
  · exact .inr (.inl ⟨hbusy, hwait, hes⟩)
  · exact .inr (.inr (.inl ⟨hbusy, hrdy, hch, hes⟩))
  · exact .inr (.inr (.inr (.inl ⟨hbusy, hrdy, hch, hes⟩)))
  · exact .inr (.inr (.inr (.inr ⟨hbusy, hrdy, hch, hes⟩)))

/-- Each row of the transition table of R93 is an SPC group. -/
theorem spcGroup_setpointEvents (p : Config.Params) (r : Regs) : SpcGroup r (setpointEvents p r) := by
  cases hen : r.cfgEn <;> cases hon : r.outOn <;> simp only [SpcGroup, setpointEvents, hen, hon]
  case true.true =>
    by_cases hv : r.cfgVset = r.applVset <;> by_cases hi : r.cfgCset = r.applCset <;> simp [hv, hi]
  all_goals simp

theorem AdcDoes.length_events_le {rdy : Bool} {raw : Sample} {r q : Regs} {es : List Event}
    (h : AdcDoes rdy raw r q es) : es.length ≤ 3 := by
  rcases h.events with rfl | ⟨_, rfl⟩ | ⟨_, -, rfl⟩ | ⟨_, _, _, _, rfl⟩ <;> simp

theorem SpcDoes.length_events_le {p : Config.Params} {r q : Regs} {es : List Event} (h : SpcDoes p r q es) :
    es.length ≤ 3 := by
  rcases h.events with rfl | ⟨_, rfl⟩ | ⟨_, rfl⟩ | ⟨_, _, rfl⟩ | ⟨_, _, rfl⟩ | rfl <;> simp

theorem length_diagEvents_le (aux : Bool) (r : Regs) : (diagEvents aux r).length ≤ 1 := by
  rcases diagEvents_cases aux r with h | h <;> rw [h] <;> simp

/-- Settles O49: the groups are what the ADC step, `DIAG` and SPC append, of at most 3, 1 and 3 events; SEQ writes nothing that
the SPC group looks at. -/
theorem tickEventsComeInThreeGroups : Obligations.TickEventsComeInThreeGroups := by
  intro s rdy cc aux raw
  obtain ⟨q, r, adc, spc, hadc, hspc, htick⟩ := exec_tick_spec rdy cc aux raw s
  refine ⟨_, adc, spc, htick, rfl, ?atMostSeven, adcGroup_of_adcDoes hadc, ?spcGroup⟩
  case atMostSeven =>
    have hadc3 := AdcDoes.length_events_le hadc
    have hdiag1 := length_diagEvents_le aux s.regs
    have hspc3 := SpcDoes.length_events_le hspc
    change (adc ++ diagEvents aux s.regs ++ spc).length ≤ 7
    rw [List.length_append, List.length_append]
    omega
  case spcGroup =>
    obtain ⟨hhost, hown, -⟩ := hadc.frame
    obtain ⟨-, rfl⟩ := setpointEvents_of_spcDoes hspc
    rw [setpointEvents_congr s.params (r := s.regs) (q := { q with ccActive := cc, auxLast := aux }) hhost hown]
    exact spcGroup_setpointEvents s.params s.regs

end Sys2Proof.Proofs

namespace Sys2Proof.Proofs

open Sys2Proof.Machine Sys2Proof.Safety

/-! ### Malformed words (R48, R112) -/

theorem extractLsb'_ne_zero_of_bit {w : OpWord} {start len k : Nat} (hstart : start ≤ k) (hlen : k < start + len)
    (hbit : w.getLsbD k = true) : w.extractLsb' start len ≠ 0 := by
  intro hzero
  have hfield : (w.extractLsb' start len).getLsbD (k - start) = true := by
    rw [BitVec.getLsbD_extractLsb', Nat.add_sub_cancel' hstart, hbit, Bool.and_true]
    exact decide_eq_true (by omega)
  rw [hzero] at hfield
  simp at hfield

/-! What the decoder does with a word of each kind (R44 to R47). -/

theorem decode_of_kind_idle {w : OpWord} (hk : w.kind = 0b00#2) :
    decode w = if w.idleZeros = 0 then .instr .idle else .malformed .idle := by
  simp [decode, hk]

theorem decode_of_kind_rd {w : OpWord} (hk : w.kind = 0b01#2) :
    decode w = if w.bit21 = false ∧ w.data = 0 then .instr (decodeRd w.addr) else .malformed .rd := by
  simp [decode, hk]

theorem decode_of_kind_wr {w : OpWord} (hk : w.kind = 0b10#2) :
    decode w = if w.bit21 = false then .instr (decodeWr w.addr w.data) else .malformed .wr := by
  simp [decode, hk]

theorem decode_of_kind_tick {w : OpWord} (hk : w.kind = 0b11#2) :
    decode w = if w.tickZeros = 0 then .instr (.tick w.rdy w.cc w.aux w.raw) else .malformed .tick := by
  simp [decode, hk]

/-- The decoder rejects a word with a fixed bit set, naming its kind. -/
theorem decode_malformed_of_fixedBitSet {w : OpWord} (h : FixedBitSet w) : ∃ why, decode w = .malformed why := by
  rcases h with ⟨hk, k, hhi, hbit⟩ | ⟨hk, hbits⟩ | ⟨hk, hbit⟩ | ⟨hk, k, hlo, hhi, hbit⟩
  case inl =>
    have hzeros : w.idleZeros ≠ 0 := extractLsb'_ne_zero_of_bit (Nat.zero_le k) (by omega) hbit
    exact ⟨.idle, by rw [decode_of_kind_idle hk, if_neg hzeros]⟩
  case inr.inl =>
    have hzeros : ¬(w.bit21 = false ∧ w.data = 0) := by
      rintro ⟨hbit21, hdata⟩
      rcases hbits with hbit | ⟨k, hhi, hbit⟩
      · exact Bool.false_ne_true (hbit21.symm.trans hbit)
      · exact extractLsb'_ne_zero_of_bit (Nat.zero_le k) (by omega) hbit hdata
    exact ⟨.rd, by rw [decode_of_kind_rd hk, if_neg hzeros]⟩
  case inr.inr.inl =>
    have hbit21 : w.bit21 ≠ false := Bool.ne_false_iff.mpr hbit
    exact ⟨.wr, by rw [decode_of_kind_wr hk, if_neg hbit21]⟩
  case inr.inr.inr =>
    have hzeros : w.tickZeros ≠ 0 := extractLsb'_ne_zero_of_bit hlo (by omega) hbit
    exact ⟨.tick, by rw [decode_of_kind_tick hk, if_neg hzeros]⟩

theorem replies_rejectWord (s : State) : Replies s s.rejectWord s.regs ⟨0, .malformed, []⟩ :=
  replies_start_raiseBusError s .malformed

/-- Settles O8: the decoder rejects the word, and a rejected word is answered with the bus error of code 3 whatever its kind. -/
theorem malformedWordIsAnsweredWithCodeThree : Obligations.MalformedWordIsAnsweredWithCodeThree := by
  intro s w hfixed
  obtain ⟨why, hdecode⟩ := decode_malformed_of_fixedBitSet hfixed
  exact ⟨s.rejectWord, step_present_malformed hdecode, replies_rejectWord s⟩

/-! ### Unmapped addresses (R110) -/

theorem decodeRd_of_unmapped {a : Addr} (h : a ∈ unmappedAddrs) : decodeRd a = .rdUnmapped a := by
  fin_cases h <;> rfl

theorem decodeWr_of_unmapped {a : Addr} (h : a ∈ unmappedAddrs) (d : Word) : decodeWr a d = .wrUnmapped a d := by
  fin_cases h <;> rfl

theorem exec_rdUnmapped (a : Addr) (s : State) : exec (.rdUnmapped a) s = .next s.hostUnmapped := rfl
theorem exec_wrUnmapped (a : Addr) (d : Word) (s : State) : exec (.wrUnmapped a d) s = .next s.hostUnmapped := rfl

/-- Settles O18: the six addresses are those that `decodeRd` and `decodeWr` have no register for, and both operations are the
bus error of an unmapped access. -/
theorem unmappedAccessAnswersCodeOne : Obligations.UnmappedAccessAnswersCodeOne := by
  intro s a d hunmapped
  refine ⟨?readDecodes, ?writeDecodes, ⟨_, exec_rdUnmapped a s, replies_hostUnmapped s⟩,
    ⟨_, exec_wrUnmapped a d s, replies_hostUnmapped s⟩⟩
  case readDecodes => rw [decode_rdWord, decodeRd_of_unmapped hunmapped]
  case writeDecodes => rw [decode_wrWord, decodeWr_of_unmapped hunmapped]

/-! ### Read-only registers (R111) -/

theorem regAt_ne_none_of_readOnly {a : Addr} (h : a.toNat ∈ readOnlyAddrs) : regAt a ≠ none := by decide +revert

/-- The WR operation of a read-only address is the bus error of code 2. -/
theorem exec_decodeWr_of_readOnly {a : Addr} (h : a.toNat ∈ readOnlyAddrs) (d : Word) (s : State) :
    exec (decodeWr a d) s = .next (s.start.raiseBusError .readOnly) := by
  obtain ⟨x, hreg⟩ := Option.ne_none_iff_exists'.mp (regAt_ne_none_of_readOnly h)
  rw [exec_decodeWr, hreg]
  rcases hostWrite_cases s a x d hreg with ⟨-, hrefused⟩ | ⟨hwritable, -⟩
  · exact congrArg _ hrefused
  · exact absurd h hwritable

theorem toNat_ofNat_of_readOnly {n : Nat} (h : n ∈ readOnlyAddrs) : (BitVec.ofNat 5 n).toNat = n := by
  fin_cases h <;> rfl

/-- The fifteen refused writes are the WR operations of the read-only addresses of R99, in order. -/
theorem readOnlyWrites_eq_map (d : Word) :
    [Instr.wrMulP d, .wrMulPh d, .wrRawCout d, .wrRawVout d, .wrRawVin d, .wrCout d, .wrVout d, .wrVin d, .wrAcc d,
      .wrSeqStat d, .wrSpcStat d, .wrDutyV d, .wrDutyI d, .wrApplVset d, .wrApplCset d] =
      readOnlyAddrs.map fun n => decodeWr (BitVec.ofNat 5 n) d := rfl

/-- Settles O22: each of the writes is the WR operation of a read-only address. -/
theorem readOnlyWritesAnswerCodeTwo : Obligations.ReadOnlyWritesAnswerCodeTwo := by
  intro s d i hi
  rw [readOnlyWrites_eq_map] at hi
  obtain ⟨n, hn, rfl⟩ := List.mem_map.mp hi
  have hreadOnly : (BitVec.ofNat 5 n).toNat ∈ readOnlyAddrs := by rwa [toNat_ofNat_of_readOnly hn]
  exact ⟨_, exec_decodeWr_of_readOnly hreadOnly d s, replies_start_raiseBusError s .readOnly⟩

end Sys2Proof.Proofs

namespace Sys2Proof.Proofs

open Sys2Proof.Machine Sys2Proof.Safety

/-! ### Encoding (R45 to R47, R54) -/

/-- An operation has a word of its own and a micro-operation has none (R54). -/
theorem isSome_encode (i : Instr) : (encode i).isSome = !i.isMicro := by cases i <;> rfl

/-- Settles O5: every word that `encode` gives is that of IDLE, the RD or WR word of an address, or a TICK word, and the decoder
reads the fields of each back. -/
theorem decodeReadsEncodedOperation : Obligations.DecodeReadsEncodedOperation := by
  refine ⟨fun i w hwf hword => ?roundTrip, fun i hop => ?hasWord⟩
  case hasWord => exact Option.isSome_iff_exists.mp (by rw [isSome_encode, hop]; rfl)
  case roundTrip =>
    cases i with
    | idle => cases hword; rfl
    | rdCfgOutput | rdCfgVset | rdCfgCset | rdCalVin | rdCalVoutA | rdCalVoutB | rdCalCoutA | rdCalCoutB | rdMulX | rdMulY
    | rdMulP | rdMulPh | rdRawCout | rdRawVout | rdRawVin | rdCout | rdVout | rdVin | rdAcc | rdSeqStat | rdSpcStat
    | rdDutyV | rdDutyI | rdApplVset | rdApplCset | rdStatus => cases hword; exact decode_rdWord _
    | rdUnmapped a =>
      cases hword
      rw [decode_rdWord, decodeRd_of_unmapped (List.contains_iff_mem.mp hwf)]
    | wrCfgOutput d | wrCfgVset d | wrCfgCset d | wrCalVin d | wrCalVoutA d | wrCalVoutB d | wrCalCoutA d | wrCalCoutB d
    | wrMulX d | wrMulY d | wrMulP d | wrMulPh d | wrRawCout d | wrRawVout d | wrRawVin d | wrCout d | wrVout d | wrVin d
    | wrAcc d | wrSeqStat d | wrSpcStat d | wrDutyV d | wrDutyI d | wrApplVset d | wrApplCset d | wrStatus d =>
      cases hword; exact decode_wrWord _ d
    | wrUnmapped a d =>
      cases hword
      rw [decode_wrWord, decodeWr_of_unmapped (List.contains_iff_mem.mp hwf)]
    | tick rdy cc aux raw => cases hword; exact decode_tickWord rdy cc aux raw
    | adcKick | adcDone | adcWait | calI | calVo | calVi | disp | fxmul | sense | diag | duty | progV | progI | spEnable
    | spDisable | spReconcile | spHold => cases hword

/-! ### The word of a decoded operation (R42, R48) -/

/-- The operation `i` is well formed and has the word `w`. -/
def IsOperationOf (w : OpWord) (i : Instr) : Prop := i.wellFormed = true ∧ i.isMicro = false ∧ encode i = some w

theorem isOperationOf_rdWord (a : Addr) : IsOperationOf (rdWord a) (decodeRd a) := by
  rcases a with ⟨⟨n, hn⟩⟩
  interval_cases n <;> exact ⟨rfl, rfl, rfl⟩

theorem isOperationOf_wrWord (a : Addr) (d : Word) : IsOperationOf (wrWord a d) (decodeWr a d) := by
  rcases a with ⟨⟨n, hn⟩⟩
  interval_cases n <;> exact ⟨rfl, rfl, rfl⟩

/-! The fields of a word as numbers, from which the word is put together again. -/

theorem kind_toNat (w : OpWord) : w.kind.toNat = w.toNat / 0x400000 := by
  have := w.isLt
  rw [OpWord.kind, BitVec.extractLsb'_toNat, Nat.shiftRight_eq_div_pow]
  omega

theorem bit21_eq (w : OpWord) : w.bit21 = decide (w.toNat / 0x200000 % 2 = 1) := by
  rw [OpWord.bit21, BitVec.getLsbD, Nat.testBit_eq_decide_div_mod_eq]

theorem addr_toNat (w : OpWord) : w.addr.toNat = w.toNat / 65536 % 32 := by
  rw [OpWord.addr, BitVec.extractLsb'_toNat, Nat.shiftRight_eq_div_pow]

theorem data_toNat (w : OpWord) : w.data.toNat = w.toNat % 65536 := by
  rw [OpWord.data, BitVec.extractLsb'_toNat, Nat.shiftRight_zero]

theorem eq_accessWord_of_bit21 {w : OpWord} (h : w.bit21 = false) : w = accessWord w.kind w.addr w.data := by
  rw [bit21_eq, decide_eq_false_iff_not] at h
  apply BitVec.eq_of_toNat_eq
  rw [accessWord_toNat, kind_toNat, addr_toNat, data_toNat]
  omega

theorem tickZeros_toNat (w : OpWord) : w.tickZeros.toNat = w.toNat / 8192 % 512 := by
  rw [OpWord.tickZeros, BitVec.extractLsb'_toNat, Nat.shiftRight_eq_div_pow]

theorem bit_getLsbD (w : OpWord) (k : Nat) : bit (w.getLsbD k) = w.toNat / 2 ^ k % 2 := by
  rw [BitVec.getLsbD, Nat.testBit_eq_decide_div_mod_eq, bit_decide_odd]

theorem raw_toNat (w : OpWord) : w.raw.toNat = w.toNat % 1024 := by
  rw [OpWord.raw, BitVec.extractLsb'_toNat, Nat.shiftRight_zero]

theorem eq_tickWord_of_tickZeros {w : OpWord} (hkind : w.kind = 0b11#2) (hzeros : w.tickZeros = 0) :
    w = tickWord w.rdy w.cc w.aux w.raw := by
  have hk : w.toNat / 0x400000 = 3 := by rw [← kind_toNat, hkind]; rfl
  have hz : w.toNat / 8192 % 512 = 0 := by rw [← tickZeros_toNat, hzeros]; rfl
  apply BitVec.eq_of_toNat_eq
  rw [tickWord_toNat, OpWord.rdy, OpWord.cc, OpWord.aux, bit_getLsbD, bit_getLsbD, bit_getLsbD, raw_toNat]
  omega

theorem idleZeros_toNat (w : OpWord) : w.idleZeros.toNat = w.toNat % 0x400000 := by
  rw [OpWord.idleZeros, BitVec.extractLsb'_toNat, Nat.shiftRight_zero]

theorem eq_zero_of_idleZeros {w : OpWord} (hkind : w.kind = 0b00#2) (hzeros : w.idleZeros = 0) : w = 0x000000#24 := by
  have hk : w.toNat / 0x400000 = 0 := by rw [← kind_toNat, hkind]; rfl
  have hz : w.toNat % 0x400000 = 0 := by rw [← idleZeros_toNat, hzeros]; rfl
  apply BitVec.eq_of_toNat_eq
  rw [BitVec.toNat_ofNat]
  omega

theorem kind_cases (w : OpWord) : w.kind = 0b00#2 ∨ w.kind = 0b01#2 ∨ w.kind = 0b10#2 ∨ w.kind = 0b11#2 := by
  have four : ∀ k : BitVec 2, k = 0b00#2 ∨ k = 0b01#2 ∨ k = 0b10#2 ∨ k = 0b11#2 := by decide
  exact four w.kind

/-- Settles O6: a word that decodes has 0 in every bit that the format of its kind fixes, so it is the word put together from
the fields the decoder read. -/
theorem decodedOperationEncodesBack : Obligations.DecodedOperationEncodesBack := by
  intro w i hdecode
  change IsOperationOf w i
  rcases kind_cases w with hkind | hkind | hkind | hkind
  · rw [decode_of_kind_idle hkind] at hdecode
    split at hdecode
    next hzeros =>
      obtain rfl := Decoded.instr.inj hdecode
      rw [eq_zero_of_idleZeros hkind hzeros]
      exact ⟨rfl, rfl, rfl⟩
    next => cases hdecode
  · rw [decode_of_kind_rd hkind] at hdecode
    split at hdecode
    next hzeros =>
      obtain rfl := Decoded.instr.inj hdecode
      obtain ⟨hbit21, hdata⟩ := hzeros
      have hw : w = rdWord w.addr := by
        rw [rdWord_eq_accessWord, ← hkind, ← hdata]; exact eq_accessWord_of_bit21 hbit21
      have hop := isOperationOf_rdWord w.addr
      rwa [← hw] at hop
    next => cases hdecode
  · rw [decode_of_kind_wr hkind] at hdecode
    split at hdecode
    next hbit21 =>
      obtain rfl := Decoded.instr.inj hdecode
      have hw : w = wrWord w.addr w.data := by
        rw [wrWord_eq_accessWord, ← hkind]; exact eq_accessWord_of_bit21 hbit21
      have hop := isOperationOf_wrWord w.addr w.data
      rwa [← hw] at hop
    next => cases hdecode
  · rw [decode_of_kind_tick hkind] at hdecode
    split at hdecode
    next hzeros =>
      obtain rfl := Decoded.instr.inj hdecode
      exact ⟨rfl, rfl, congrArg some (eq_tickWord_of_tickZeros hkind hzeros).symm⟩
    next => cases hdecode

end Sys2Proof.Proofs

namespace Sys2Proof.Proofs

open Sys2Proof.Machine Sys2Proof.Safety

/-! ### Malformed words, in both directions (R48) -/

/-- The converse of `extractLsb'_ne_zero_of_bit`. -/
theorem exists_bit_of_extractLsb'_ne_zero {w : OpWord} {start len : Nat} (h : w.extractLsb' start len ≠ 0) :
    ∃ k, start ≤ k ∧ k < start + len ∧ w.getLsbD k = true := by
  by_contra hnone
  push Not at hnone
  refine h (BitVec.eq_of_getLsbD_eq fun j hj => ?_)
  rw [BitVec.getLsbD_extractLsb', Bool.eq_false_iff.mpr (hnone (start + j) (by omega) (by omega))]
  simp

theorem fixedBitSet_of_decode_malformed {w : OpWord} {why : Malformed} (h : decode w = .malformed why) :
    FixedBitSet w := by
  rcases kind_cases w with hkind | hkind | hkind | hkind
  · rw [decode_of_kind_idle hkind] at h
    split at h <;> cases h
    next hzeros =>
      obtain ⟨k, -, hk, hbit⟩ := exists_bit_of_extractLsb'_ne_zero hzeros
      exact .inl ⟨hkind, k, by omega, hbit⟩
  · rw [decode_of_kind_rd hkind] at h
    split at h <;> cases h
    next hzeros =>
      refine .inr (.inl ⟨hkind, ?_⟩)
      by_cases hbit21 : w.bit21 = false
      · obtain ⟨k, -, hk, hbit⟩ := exists_bit_of_extractLsb'_ne_zero fun hdata => hzeros ⟨hbit21, hdata⟩
        exact .inr ⟨k, by omega, hbit⟩
      · exact .inl (Bool.ne_false_iff.mp hbit21)
  · rw [decode_of_kind_wr hkind] at h
    split at h <;> cases h
    next hbit21 => exact .inr (.inr (.inl ⟨hkind, Bool.ne_false_iff.mp hbit21⟩))
  · rw [decode_of_kind_tick hkind] at h
    split at h <;> cases h
    next hzeros =>
      obtain ⟨k, hlo, hhi, hbit⟩ := exists_bit_of_extractLsb'_ne_zero hzeros
      exact .inr (.inr (.inr ⟨hkind, k, hlo, by omega, hbit⟩))

/-- Settles O7: the decoder looks at exactly the bits that the format of the word's kind fixes. -/
theorem malformedExactlyWhenFixedBitSet : Obligations.MalformedExactlyWhenFixedBitSet :=
  fun _ => ⟨fun ⟨_, h⟩ => fixedBitSet_of_decode_malformed h, decode_malformed_of_fixedBitSet⟩

theorem not_fixedBitSet_of_decode_instr {w : OpWord} {i : Instr} (h : decode w = .instr i) : ¬FixedBitSet w := by
  intro hfixed
  obtain ⟨why, hmalformed⟩ := decode_malformed_of_fixedBitSet hfixed
  cases h.symm.trans hmalformed

/-! ### The input ports (R43) -/

/-- Settles O14: the strobes and `we` select the format, and the decoder reads back the word put together in it. -/
theorem portsSpellTheOperation : Obligations.PortsSpellTheOperation := by
  intro p
  refine ⟨fun hreq htick hwe => ?read, fun hreq htick hwe => ?write, fun hreq htick => ?tick, fun hreq htick => ?idle,
    fun hreq htick => ?both⟩
  case read => exact ⟨rdWord p.addr, by simp [Ports.word, hreq, htick, hwe], decode_rdWord _⟩
  case write => exact ⟨wrWord p.addr p.wdata, by simp [Ports.word, hreq, htick, hwe], decode_wrWord _ _⟩
  case tick =>
    exact ⟨tickWord p.adcRdy p.ccSense p.auxSense p.adcData, by simp [Ports.word, hreq, htick], decode_tickWord _ _ _ _⟩
  case idle => exact ⟨0x000000#24, by simp [Ports.word, hreq, htick], rfl⟩
  case both => simp [Ports.word, hreq, htick]

/-- Settles O9: each word is a closed term, and so is what the decoder answers for it. -/
theorem sampleWordsDecode : Obligations.SampleWordsDecode := by
  refine ⟨?_, ?_, ?_, ?_, ?_, ?_, ?_, ?_, ?_, ?_⟩ <;> rfl

end Sys2Proof.Proofs

namespace Sys2Proof.Proofs

open Sys2Proof.Machine Sys2Proof.Safety

/-! ### RD of each register (R98) -/

/-- An operation that is the host's read of `x` completes and answers what `RegRead` finds there. -/
theorem read_completes {s : State} {i : Instr} {x : Reg} {v : Word} (hexec : exec i s = .next (s.hostRead x))
    (hvalue : regRead x s.regs = v) : ∃ t, exec i s = .next t ∧ Replies s t s.regs ⟨v, .ok, []⟩ :=
  ⟨_, hexec, hvalue ▸ replies_hostRead s x⟩

theorem eq_ofNat_of_toNat {v : Word} {n : Nat} (h : v.toNat = n % 65536) : v = BitVec.ofNat 16 n :=
  BitVec.eq_of_toNat_eq (by rw [h, BitVec.toNat_ofNat])

/-- What RD returns at a mapped address is the word with the number of the table of R98. -/
theorem regRead_eq_ofNat {a : Addr} {x : Reg} {n : Nat} {r : Regs} (hreg : regAt a = some x)
    (htable : readTable a.toNat r = some n) : regRead x r = BitVec.ofNat 16 n := by
  rw [readTable_eq, hreg] at htable
  rw [← Option.some.inj htable, BitVec.ofNat_toNat, BitVec.setWidth_eq]

/-- Settles O15: each is the read of its register, which holds the word itself but for `CFG_OUTPUT`, a row of the table of
R98. -/
theorem readsOfHostRegistersComplete : Obligations.ReadsOfHostRegistersComplete := by
  intro s
  have hcfgOutput : regRead .cfgOutput s.regs = BitVec.ofNat 16 (bit s.regs.cfgEn) :=
    regRead_eq_ofNat (a := 0x00#5) rfl rfl
  exact ⟨read_completes rfl hcfgOutput, read_completes rfl rfl, read_completes rfl rfl, read_completes rfl rfl,
    read_completes rfl rfl, read_completes rfl rfl, read_completes rfl rfl, read_completes rfl rfl, read_completes rfl rfl,
    read_completes rfl rfl⟩

/-- Settles O17: each is the read of its register, which holds the word itself. -/
theorem readsOfUnitRegistersComplete : Obligations.ReadsOfUnitRegistersComplete := fun _ =>
  ⟨read_completes rfl rfl, read_completes rfl rfl, read_completes rfl rfl, read_completes rfl rfl, read_completes rfl rfl,
    read_completes rfl rfl, read_completes rfl rfl, read_completes rfl rfl⟩

/-- Settles O16: each is the read of its register or view, whose number is its row of the table of R98; of `MUL_P` the table
gives the low 16 bits. -/
theorem readsOfViewsComplete : Obligations.ReadsOfViewsComplete := by
  intro s
  have hmulP : regRead .mulP s.regs = BitVec.ofNat 16 (rounded s.regs.mulX.toNat s.regs.mulY.toNat) :=
    eq_ofNat_of_toNat (mulP_toNat s.regs)
  exact ⟨read_completes rfl hmulP, read_completes rfl (regRead_eq_ofNat (a := 0x0F#5) rfl rfl),
    read_completes rfl (regRead_eq_ofNat (a := 0x10#5) rfl rfl), read_completes rfl (regRead_eq_ofNat (a := 0x11#5) rfl rfl),
    read_completes rfl (regRead_eq_ofNat (a := 0x12#5) rfl rfl), read_completes rfl (regRead_eq_ofNat (a := 0x18#5) rfl rfl),
    read_completes rfl (regRead_eq_ofNat (a := 0x19#5) rfl rfl), read_completes rfl (regRead_eq_ofNat (a := 0x1E#5) rfl rfl)⟩

/-! ### WR of the plain value registers (R99) -/

/-- An operation that leaves the registers `r` and nothing else completes with the empty response. -/
theorem write_completes {s : State} {i : Instr} {r : Regs} (hexec : exec i s = .next (s.start.withRegs r)) :
    ∃ t, exec i s = .next t ∧ Replies s t r ⟨0, .ok, []⟩ :=
  ⟨_, hexec, replies_start_withRegs s r⟩

/-- Settles O19: each is the write of its register with the data as it is. -/
theorem valueRegisterWritesStoreData : Obligations.ValueRegisterWritesStoreData := fun _ _ =>
  ⟨write_completes rfl, write_completes rfl, write_completes rfl, write_completes rfl, write_completes rfl,
    write_completes rfl, write_completes rfl, write_completes rfl, write_completes rfl⟩

end Sys2Proof.Proofs

namespace Sys2Proof.Proofs

open Sys2Proof.Machine Sys2Proof.Safety

/-! ### The multiplier (R58, R61, R64) -/

/-- Settles O26: `FXMUL` starts an operation and leaves its answer in `value`; the product has the closed form of R60. -/
theorem fxmulAnswersProduct : Obligations.FxmulAnswersProduct := fun _ x y =>
  ⟨_, rfl, ⟨rfl, rfl, rfl, rfl⟩, fxmulFull_toNat x y⟩

theorem fxmulFull_comm (x y : Word) : fxmulFull x y = fxmulFull y x := BitVec.eq_of_toNat_eq (fxmulFull_toNat_comm x y)

/-- A multiple of 1.0 multiplies without rounding. -/
theorem rounded_mul_1024 (n m : Nat) : rounded n (1024 * m) = n * m := by
  rw [rounded, Nat.mul_left_comm]
  omega

theorem one_shiftLeft_toNat {k : Nat} (hk : k ≤ 5) : (0x0400#16 <<< k).toNat = 1024 * 2 ^ k := by
  interval_cases k <;> rfl

theorem fxmulFull_shifted_one_toNat (x : Word) {k : Nat} (hk : k ≤ 5) :
    (fxmulFull x (0x0400#16 <<< k)).toNat = x.toNat * 2 ^ k := by
  rw [fxmulFull_toNat, one_shiftLeft_toNat hk, rounded_mul_1024]

theorem fxmulFull_mono {x x' : Word} (y : Word) (h : x.toNat ≤ x'.toNat) :
    (fxmulFull x y).toNat ≤ (fxmulFull x' y).toNat := by
  have hxy : x.toNat * y.toNat ≤ x'.toNat * y.toNat := Nat.mul_le_mul_right _ h
  rw [fxmulFull_toNat, fxmulFull_toNat, rounded, rounded]
  omega

theorem fxmulFull_eq_zero_iff (x y : Word) : fxmulFull x y = 0 ↔ x.toNat * y.toNat < 512 := by
  rw [← BitVec.toNat_inj, fxmulFull_toNat, rounded]
  change (x.toNat * y.toNat + 512) / 1024 = 0 ↔ _
  omega

theorem fxmulFull_zero (x : Word) : fxmulFull x 0 = 0 := by
  rw [fxmulFull_eq_zero_iff]
  exact Nat.zero_lt_succ 511

/-- Settles O27: the laws are those of the rounded product in closed form; a half of the least word rounds up, which is what
breaks associativity. -/
theorem multiplicationLaws : Obligations.MultiplicationLaws := by
  refine ⟨fxmulFull_comm, fun x => ⟨fxmulFull_zero x, (fxmulFull_comm 0 x).trans (fxmulFull_zero x)⟩, fun x => ?one,
    fun x k hk => fxmulFull_shifted_one_toNat x hk, fun x => ?half, fun x x' y h => fxmulFull_mono y h,
    fxmulFull_eq_zero_iff, ?notAssociative⟩
  case one => exact (fxmulFull_shifted_one_toNat x (Nat.zero_le 5)).trans (Nat.mul_one _)
  case half =>
    rw [fxmulFull_toNat, rounded]
    change (x.toNat * 512 + 512) / 1024 = _
    omega
  case notAssociative => decide

/-- The words of `MUL x, y` (R57). -/
theorem encode_pseudo_mul (x y : Word) :
    (Pseudo.mul x y).mapM encode = some [wrWord 0x0C#5 x, wrWord 0x0D#5 y, rdWord 0x0E#5, rdWord 0x0F#5] := rfl

/-- The low and the high part of the product (R15) make up the whole of it. -/
theorem mulPh_mulP_toNat (r : Regs) :
    (mulPh r).toNat * 65536 + (mulP r).toNat = (r.mulX.toNat * r.mulY.toNat + 512) / 1024 := by
  rw [mulPh_toNat, mulP_toNat, rounded]
  omega

/-- Settles O29: the four words one after another; the two reads find the operands that the two writes left. -/
theorem mulPseudoOperationReadsWholeProduct : Obligations.MulPseudoOperationReadsWholeProduct := by
  intro s x y ws hwords
  obtain rfl := Option.some.inj ((encode_pseudo_mul x y).symm.trans hwords)
  have hx := step_wrWord_of_mapped (a := 0x0C#5) rfl x s
  have hy := step_wrWord_of_mapped (a := 0x0D#5) rfl y (s.hostWrite .mulX x)
  have hlo := step_rdWord_of_mapped (a := 0x0E#5) rfl ((s.hostWrite .mulX x).hostWrite .mulY y)
  have hhi := step_rdWord_of_mapped (a := 0x0F#5) rfl (((s.hostWrite .mulX x).hostWrite .mulY y).hostRead .mulP)
  refine ⟨mulP { s.regs with mulX := x, mulY := y }, mulPh { s.regs with mulX := x, mulY := y }, ?answers,
    mulPh_mulP_toNat _, ?regs⟩
  case answers => rw [responses_cons hx, responses_cons hy, responses_cons hlo, responses_cons hhi]; rfl
  case regs => rw [finalState_cons hx, finalState_cons hy, finalState_cons hlo, finalState_cons hhi]; rfl

end Sys2Proof.Proofs

namespace Sys2Proof.Proofs

open Sys2Proof.Machine Sys2Proof.Safety

/-! ### One step, whatever is presented (R8, R43, R106) -/

/-- Settles O1: the word at the head of the stream is the one decoded, and the state without it is the one run on. -/
theorem stepRunsTheDecodedOperation : Obligations.StepRunsTheDecodedOperation := by
  intro s w rest i hpending hdecode
  simp only [step, State.presented, State.taken, hpending, hdecode, List.tail_cons]

theorem step_of_pending_nil {s : State} (h : s.pending = []) : step s = .next s.taken.start := by
  simp only [step, State.presented, h, exec_idle]

theorem step_of_pending_reset {s : State} {rest : List Input} (h : s.pending = .reset :: rest) :
    step s = .next s.taken.applyReset := by
  simp only [step, State.presented, h]

/-- A state with a pending word is the state without it, with the word presented. -/
theorem present_taken_of_pending_word {s : State} {w : OpWord} {rest : List Input} (h : s.pending = .word w :: rest) :
    s.taken.present w = s := by
  cases s
  cases h
  rfl

/-- Settles O2: the step is IDLE, which keeps everything but the response. -/
theorem nothingPresentedIsIdle : Obligations.NothingPresentedIsIdle := fun s h =>
  ⟨_, step_of_pending_nil h, rfl, rfl, rfl, by rw [State.start_pending, State.taken_pending, h, List.tail_nil]⟩

/-- Settles O3: the step is `applyReset` of the state without the reset input. -/
theorem resetInputLoadsResetValues : Obligations.ResetInputLoadsResetValues := fun s rest h =>
  ⟨_, step_of_pending_reset h, rfl, rfl, rfl, by rw [State.applyReset_pending, State.taken_pending, h, List.tail_cons]⟩

/-- Settles O53: nothing, reset and a word each have a next state, and none of them touches the parameters or the rest of the
stream. -/
theorem stepAlwaysAnswers : Obligations.StepAlwaysAnswers := by
  intro s
  rcases hpending : s.pending with _ | ⟨_ | w, rest⟩
  · exact ⟨_, step_of_pending_nil hpending, rfl, by rw [State.start_pending, State.taken_pending, hpending]⟩
  case cons.word w =>
    obtain ⟨t, hstep, hparams, hrest, -⟩ := step_present_cases s.taken w
    rw [present_taken_of_pending_word hpending] at hstep
    exact ⟨t, hstep, hparams, by rw [hrest, State.taken_pending, hpending]⟩
  case cons.reset => exact ⟨_, step_of_pending_reset hpending, rfl, by rw [State.applyReset_pending, State.taken_pending, hpending]⟩

/-! ### Error codes (R49, R109 to R112, R115) -/

theorem exec_tick_ecode {rdy cc aux : Bool} {raw : Sample} {s t : State} (h : exec (.tick rdy cc aux raw) s = .next t) :
    t.resp.ecode = .ok := by
  obtain ⟨q, r, adc, spc, -, -, htick⟩ := exec_tick_spec rdy cc aux raw s
  cases htick.symm.trans h
  rfl

/-- A word that is answered with an error code changes nothing. -/
theorem step_present_error {s t : State} {w : OpWord} (hstep : step (s.present w) = .next t) (herror : t.resp.ecode ≠ .ok) :
    t.regs = s.regs ∧ t.resp.rdata = 0 ∧ t.resp.events = [] := by
  obtain ⟨t', hstep', -, -, hcases⟩ := step_present_cases s w
  cases hstep'.symm.trans hstep
  rcases hcases with ⟨-, hregs, hevents, hrdata⟩ | ⟨-, x, -, -, -, -, hresp⟩ | ⟨-, hregs, hresp⟩ | ⟨-, -, htick⟩
  · exact ⟨hregs, hrdata herror, hevents⟩
  · exact absurd (by rw [hresp]; rfl) herror
  · rw [hresp]; exact ⟨hregs, rfl, rfl⟩
  · exact absurd (exec_tick_ecode htick) herror

/-- Settles O54: only a word can be answered with an error code, and then it changes nothing. -/
theorem errorsChangeNothing : Obligations.ErrorsChangeNothing := by
  intro s t hstep herror
  rcases hpending : s.pending with _ | ⟨_ | w, rest⟩
  · cases (step_of_pending_nil hpending).symm.trans hstep
    exact absurd rfl herror
  case cons.word w =>
    rw [← present_taken_of_pending_word hpending] at hstep
    exact step_present_error (s := s.taken) hstep herror
  case cons.reset =>
    cases (step_of_pending_reset hpending).symm.trans hstep
    exact absurd rfl herror

/-- The error code of the answer to a word, in the order of R115. -/
def wordECode (w : OpWord) : ECode :=
  match decode w with
  | .malformed _ => .malformed
  | .instr _ =>
    if (w.kind = 0b01#2 ∨ w.kind = 0b10#2) ∧ w.addr ∈ unmappedAddrs then .unmapped
    else if w.kind = 0b10#2 ∧ w.addr.toNat ∈ readOnlyAddrs then .readOnly
    else .ok

/-- Unmapped addresses are not read-only registers. -/
theorem not_unmapped_of_readOnly {a : Addr} (h : a.toNat ∈ readOnlyAddrs) : a ∉ unmappedAddrs := by
  rw [← regAt_eq_none_iff]
  exact regAt_ne_none_of_readOnly h

/-- Presenting a word is answered with its code, whatever the state. -/
theorem step_present_ecode (s : State) (w : OpWord) :
    ∃ t, step (s.present w) = .next t ∧ t.resp.ecode = wordECode w := by
  rw [wordECode]
  cases h : decode w with
  | malformed why => exact ⟨_, step_present_malformed h, rfl⟩
  | instr i =>
    rw [step_present_instr h]
    rcases decode_cases h with ⟨hkind, rfl⟩ | ⟨hkind, rfl⟩ | ⟨hkind, rfl⟩ | ⟨hkind, rfl⟩
    · exact ⟨_, exec_idle s, by simp [hkind]⟩
    · refine ⟨_, exec_decodeRd w.addr s, ?_⟩
      cases hreg : regAt w.addr with
      | none => simp [hkind, (regAt_eq_none_iff w.addr).mp hreg, State.hostUnmapped]
      | some x =>
        have hmapped : w.addr ∉ unmappedAddrs := by rw [← regAt_eq_none_iff, hreg]; exact Option.some_ne_none x
        simp [hkind, hmapped, State.hostRead]
    · refine ⟨_, exec_decodeWr w.addr w.data s, ?_⟩
      cases hreg : regAt w.addr with
      | none => simp [hkind, (regAt_eq_none_iff w.addr).mp hreg, State.hostUnmapped]
      | some x =>
        have hmapped : w.addr ∉ unmappedAddrs := by rw [← regAt_eq_none_iff, hreg]; exact Option.some_ne_none x
        rcases hostWrite_cases s w.addr x w.data hreg with ⟨hro, hwrite⟩ | ⟨hrw, r, -, hwrite⟩
        · simp [hkind, hmapped, hro, hwrite]
        · simp [hkind, hmapped, hrw, hwrite]
    · obtain ⟨q, r, adc, spc, -, -, htick⟩ := exec_tick_spec w.rdy w.cc w.aux w.raw s
      exact ⟨_, htick, by simp [hkind]⟩

theorem wordECode_of_decode_instr {w : OpWord} {i : Instr} (h : decode w = .instr i) :
    wordECode w =
      if (w.kind = 0b01#2 ∨ w.kind = 0b10#2) ∧ w.addr ∈ unmappedAddrs then .unmapped
      else if w.kind = 0b10#2 ∧ w.addr.toNat ∈ readOnlyAddrs then .readOnly else .ok := by
  rw [wordECode, h]

/-- The numeric codes are different (R49). -/
theorem ecode_code_inj {c c' : ECode} : c.code = c'.code ↔ c = c' := by
  cases c <;> cases c' <;> decide

theorem wordECode_eq_malformed_iff (w : OpWord) : wordECode w = .malformed ↔ FixedBitSet w := by
  cases h : decode w with
  | malformed why => simp [wordECode, h, fixedBitSet_of_decode_malformed h]
  | instr i =>
    rw [wordECode_of_decode_instr h, iff_false_right (not_fixedBitSet_of_decode_instr h)]
    split_ifs <;> simp

theorem wordECode_eq_unmapped_iff (w : OpWord) : wordECode w = .unmapped ↔
    ¬FixedBitSet w ∧ (w.kind = 0b01#2 ∨ w.kind = 0b10#2) ∧ w.addr ∈ unmappedAddrs := by
  cases h : decode w with
  | malformed why => simp [wordECode, h, fixedBitSet_of_decode_malformed h]
  | instr i =>
    rw [wordECode_of_decode_instr h, and_iff_right (not_fixedBitSet_of_decode_instr h)]
    split_ifs <;> simp_all

theorem wordECode_eq_readOnly_iff (w : OpWord) : wordECode w = .readOnly ↔
    ¬FixedBitSet w ∧ w.kind = 0b10#2 ∧ w.addr.toNat ∈ readOnlyAddrs := by
  cases h : decode w with
  | malformed why => simp [wordECode, h, fixedBitSet_of_decode_malformed h]
  | instr i =>
    rw [wordECode_of_decode_instr h, and_iff_right (not_fixedBitSet_of_decode_instr h)]
    split_ifs with hunmapped hro
    · obtain ⟨-, haddr⟩ := hunmapped
      simpa using fun _ hro => not_unmapped_of_readOnly hro haddr
    · simpa using hro
    · simpa using hro

/-- Settles O60: the code depends on the word alone, and each of the three conditions is that of its branch. -/
theorem errorCodesAreTheNumbersOfTheTable : Obligations.ErrorCodesAreTheNumbersOfTheTable := by
  refine ⟨rfl, rfl, rfl, rfl, fun s w => ?_⟩
  obtain ⟨t, hstep, hcode⟩ := step_present_ecode s w
  refine ⟨t, hstep, ?malformed, ?unmapped, ?readOnly⟩
  case malformed => exact (ecode_code_inj (c' := .malformed)).trans (hcode ▸ wordECode_eq_malformed_iff w)
  case unmapped => exact (ecode_code_inj (c' := .unmapped)).trans (hcode ▸ wordECode_eq_unmapped_iff w)
  case readOnly => exact (ecode_code_inj (c' := .readOnly)).trans (hcode ▸ wordECode_eq_readOnly_iff w)

end Sys2Proof.Proofs

namespace Sys2Proof.Proofs

open Sys2Proof.Machine Sys2Proof.Safety

/-! ### The ADC part of a tick (R67 to R70, R78, R82) -/

theorem exec_adcKick (s : State) : exec .adcKick s = .next (adcKick s.start) := rfl
theorem exec_adcWait (s : State) : exec .adcWait s = .next (adcWait s.start) := rfl

/-- Settles O34: the start of an operation has no events, so the one of `ADC.KICK` is all; `ADC.WAIT` adds none. -/
theorem kickStartsAndWaitDoesNothing : Obligations.KickStartsAndWaitDoesNothing := fun s =>
  ⟨⟨_, exec_adcKick s, acts_start_doing s { s.regs with busy := true } [.adcStart s.regs.ch]⟩,
    _, exec_adcWait s, acts_start_withRegs s s.regs⟩

/-- What a tick leaves in the registers of SEQ is what its ADC part left there and the two sense inputs; the events to the ADC and
the display are those of the ADC part. -/
theorem exec_tick_adcDoes {rdy cc aux : Bool} {raw : Sample} {s t : State} (h : exec (.tick rdy cc aux raw) s = .next t) :
    ∃ q adc, AdcDoes rdy raw s.regs q adc ∧ SameSeqRegs { q with ccActive := cc, auxLast := aux } t.regs ∧
      t.resp.events.filter (fun e => isAdc e || isDisplay e) = adc := by
  obtain ⟨q, r, adc, spc, hadc, hspc, htick⟩ := exec_tick_spec rdy cc aux raw s
  cases htick.symm.trans h
  obtain ⟨-, hseq, -⟩ := hspc.frame
  refine ⟨q, adc, hadc, hseq, ?events⟩
  case events =>
    have hadcOwn : adc.filter (fun e => isAdc e || isDisplay e) = adc := by
      rcases hadc.events with rfl | ⟨_, rfl⟩ | ⟨_, -, rfl⟩ | ⟨_, _, _, _, rfl⟩ <;> rfl
    have hdiagNone : (diagEvents aux s.regs).filter (fun e => isAdc e || isDisplay e) = [] := by
      rcases diagEvents_cases aux s.regs with hdiag | hdiag <;> rw [hdiag] <;> rfl
    have hspcNone : spc.filter (fun e => isAdc e || isDisplay e) = [] := by
      rcases hspc.events with rfl | ⟨_, rfl⟩ | ⟨_, rfl⟩ | ⟨_, _, rfl⟩ | ⟨_, _, rfl⟩ | rfl <;> rfl
    change (adc ++ diagEvents aux s.regs ++ spc).filter _ = adc
    rw [List.filter_append, List.filter_append, hadcOwn, hdiagNone, hspcNone, List.append_nil, List.append_nil]

/-- `BUSY` is set by the first tick and never cleared (R20). -/
theorem busy_of_adcDoes {rdy : Bool} {raw : Sample} {r q : Regs} {es : List Event} (h : AdcDoes rdy raw r q es) :
    q.busy = true := by
  rcases h with ⟨-, rfl, -⟩ | ⟨hbusy, -, rfl, -⟩ | ⟨hbusy, -, -, -, rfl⟩ | ⟨hbusy, -, -, -, rfl⟩ | ⟨hbusy, -, -, -, rfl⟩
  · rfl
  all_goals exact hbusy

/-- Settles O38: the rows are the five ways the ADC part of a tick can go; a row's hypotheses leave one of them. -/
theorem sequencerTransitionTable : Obligations.SequencerTransitionTable := by
  intro s rdy cc aux raw
  have htick := exec_tick rdy cc aux raw s
  obtain ⟨q, adc, hadc, ⟨-, -, -, -, -, -, -, hch, hbusy, -, -⟩, hevents⟩ := exec_tick_adcDoes htick
  have hset : q.busy = true := busy_of_adcDoes hadc
  refine ⟨_, htick, hbusy.trans hset, ?rows⟩
  case rows =>
    rw [hevents, hch]
    rcases hadc with ⟨hb, rfl, rfl⟩ | ⟨hb, hr, rfl, rfl⟩ | ⟨hb, hr, hc, rfl, rfl⟩ | ⟨hb, hr, hc, rfl, rfl⟩ |
      ⟨hb, hr, hc, ⟨d3, d2, d1, d0, rfl⟩, rfl⟩ <;> simp [*]

/-- Settles O39: only the completion of a channel writes that channel's registers, and only a completion writes `ACC`. -/
theorem measuredValuesHoldBetweenCompletions : Obligations.MeasuredValuesHoldBetweenCompletions := by
  intro s t rdy cc aux raw htick
  obtain ⟨q, adc, hadc, ⟨hrawCout, hrawVout, hrawVin, hcout, hvout, hvin, hacc, -⟩, -⟩ := exec_tick_adcDoes htick
  rw [hrawCout, hrawVout, hrawVin, hcout, hvout, hvin, hacc]
  rcases hadc with ⟨hb, rfl, -⟩ | ⟨hb, hr, rfl, -⟩ | ⟨hb, hr, hc, -, rfl⟩ | ⟨hb, hr, hc, -, rfl⟩ | ⟨hb, hr, hc, -, rfl⟩ <;>
    simp [*]

/-! ### The sense inputs (R79, R80) -/

theorem diagAux_notMem_adc {rdy : Bool} {raw : Sample} {r q : Regs} {es : List Event} (h : AdcDoes rdy raw r q es)
    (level : Bool) : .diagAux level ∉ es := by
  rcases h.events with rfl | ⟨_, rfl⟩ | ⟨_, -, rfl⟩ | ⟨_, _, _, _, rfl⟩ <;> simp

theorem diagAux_notMem_spc {p : Config.Params} {r q : Regs} {es : List Event} (h : SpcDoes p r q es) (level : Bool) :
    .diagAux level ∉ es := by
  rcases h.events with rfl | ⟨_, rfl⟩ | ⟨_, rfl⟩ | ⟨_, _, rfl⟩ | ⟨_, _, rfl⟩ | rfl <;> simp

theorem diagAux_mem_diagEvents_iff (level aux : Bool) (r : Regs) :
    .diagAux level ∈ diagEvents aux r ↔ level = aux ∧ aux ≠ r.auxLast := by
  unfold diagEvents
  split_ifs with h <;> simp [h]

/-- The only event of `AUX` in a tick is that of `DIAG`. -/
theorem diagAux_mem_tick_iff {rdy cc aux : Bool} {raw : Sample} {s t : State} (h : exec (.tick rdy cc aux raw) s = .next t)
    (level : Bool) : .diagAux level ∈ t.resp.events ↔ level = aux ∧ aux ≠ s.regs.auxLast := by
  obtain ⟨q, r, adc, spc, hadc, hspc, htick⟩ := exec_tick_spec rdy cc aux raw s
  cases htick.symm.trans h
  rw [← diagAux_mem_diagEvents_iff]
  simp [diagAux_notMem_adc hadc, diagAux_notMem_spc hspc]

/-- Settles O36: SENSE and DIAG at the start of an operation; after a tick SPC has left both registers as they wrote them. -/
theorem senseInputsAreSampled : Obligations.SenseInputsAreSampled := by
  intro s cc aux rdy raw
  refine ⟨⟨_, exec_sense cc s, acts_start_withRegs s _⟩, ⟨_, exec_diag aux s, ?diag⟩, ?tick⟩
  case diag => rw [diag_eq_doing]; exact acts_start_doing s _ _
  case tick =>
    have htick := exec_tick rdy cc aux raw s
    obtain ⟨q, adc, -, ⟨-, -, -, -, -, -, -, -, -, hcc, haux⟩, -⟩ := exec_tick_adcDoes htick
    refine ⟨_, htick, hcc, haux, ?_, ?_⟩
    · rw [diagAux_mem_tick_iff htick]
      exact and_iff_right rfl
    · rw [diagAux_mem_tick_iff htick]
      exact fun h => Bool.not_ne_self aux h.left

/-! ### The ranges of the calibrations (R81) -/

theorem secondProduct_le (raw : Sample) (g : Word) : secondProduct raw g ≤ 216042 := by
  have := firstProduct_le raw g
  rw [secondProduct, rounded]
  omega

theorem secondProduct_overflows_iff (raw : Sample) (g : Word) : 65536 ≤ secondProduct raw g ↔ 19861 ≤ firstProduct raw g := by
  rw [secondProduct, rounded]
  omega

/-- What a clear flag becomes when a condition is noted in it. -/
theorem noted_iff {flag : Bool} {P : Prop} [Decidable P] (h : flag = false) : (flag || decide P) = true ↔ P := by
  rw [h, Bool.false_or, decide_eq_true_iff]

/-- Settles O37: each calibration notes in `CAL_OVF` that its second product overflows, which is a threshold of the first, and in
`CAL_UNF` what its rule says. -/
theorem calibrationFlagThresholds : Obligations.CalibrationFlagThresholds := by
  refine ⟨fun raw g => ⟨firstProduct_le raw g, secondProduct_le raw g⟩, ⟨1023#10, 0xFFFF#16, rfl⟩,
    fun s raw hovf hunf => ⟨?current, ?voltageOut, ?voltageIn⟩⟩
  case current =>
    obtain ⟨t, hexec, hregs, -⟩ := currentCalibrationStoresSample s raw
    rw [← secondProduct_overflows_iff]
    exact ⟨t, hexec, by rw [hregs]; exact noted_iff hovf, by rw [hregs]; exact noted_iff hunf⟩
  case voltageOut =>
    obtain ⟨t, hexec, hregs, -⟩ := outputVoltageCalibrationStoresSample s raw
    rw [← secondProduct_overflows_iff]
    exact ⟨t, hexec, by rw [hregs]; exact noted_iff hovf, by rw [hregs]; exact noted_iff hunf⟩
  case voltageIn =>
    obtain ⟨t, d3, d2, d1, d0, hexec, ⟨hregs, -⟩, -⟩ := inputVoltageCalibrationStoresAndDisplays s raw
    rw [← secondProduct_overflows_iff]
    exact ⟨t, hexec, by rw [hregs]; exact noted_iff hovf, by rw [hregs]; exact hunf⟩

end Sys2Proof.Proofs

namespace Sys2Proof.Proofs

open Sys2Proof.Machine Sys2Proof.Safety

/-! ### `DUTY` run on its own (R84) -/

theorem exec_duty_of_ne_zero {m : Word} (hm : m ≠ 0) (sp d : Word) (s : State) : exec (.duty sp m d) s =
    .next ((s.start.withRegs (noteDuty sp m d s.regs)).withValue ((duty16 sp m d).zeroExtend 22)) := if_neg hm

theorem exec_duty_zero (sp d : Word) (s : State) : exec (.duty sp 0 d) s = .refused .zeroFullScale := rfl

/-- Settles O40: the registers are those of `noteDuty`, and the 22 bits of the answer hold all 16 of the duty. -/
theorem dutyAnswersTruncatedQuotient : Obligations.DutyAnswersTruncatedQuotient := by
  intro s sp m d
  refine ⟨fun hm => ⟨_, exec_duty_of_ne_zero hm sp d s, ?acts, ?value⟩, fun hm => ?refused⟩
  case acts => rw [noteDuty_spec]; exact ⟨rfl, rfl, rfl, rfl⟩
  case value =>
    have hlt := (duty16 sp m d).isLt
    rw [State.withValue_value, BitVec.zeroExtend, BitVec.toNat_setWidth, Nat.mod_eq_of_lt (by omega), duty16_toNat]
    rfl
  case refused => rw [hm]; exact exec_duty_zero sp d s

/-! ### The SPC part of a tick and the record of what was applied (R27, R92, R137) -/

theorem exec_spHold (s : State) : exec .spHold s = .next (spHold s.start) := rfl

/-- Settles O46: SPC holds, from registers in which SEQ has changed nothing of SPC's. -/
theorem holdDoesNothing : Obligations.HoldDoesNothing := by
  intro s
  refine ⟨⟨_, exec_spHold s, acts_start_withRegs s s.regs⟩, fun rdy cc aux raw hen hon => ?tick⟩
  case tick =>
    obtain ⟨q, r, adc, spc, hadc, hspc, htick⟩ := exec_tick_spec rdy cc aux raw s
    obtain ⟨⟨henKept, -⟩, hspcKept, hovfKept⟩ := hadc.frame
    obtain ⟨hdiag, -⟩ := diagEvents_filters aux s.regs
    have hhold : SpcDoes s.params { q with ccActive := cc, auxLast := aux } { q with ccActive := cc, auxLast := aux } [] :=
      .inl ⟨henKept.trans hen, hspcKept.left.trans hon, rfl, rfl⟩
    obtain ⟨rfl, rfl⟩ := hspc.unique hhold
    refine ⟨_, htick, hspcKept, hovfKept, ?_⟩
    change (adc ++ diagEvents aux s.regs ++ []).filter isSpc = []
    rw [List.append_nil, List.filter_append, hadc.no_spc_event, hdiag, List.append_nil]

/-- Both duties are the low 16 bits of those of the set-points applied (R23). -/
def DutiesOfApplied (p : Config.Params) (r : Regs) : Prop :=
  r.dutyV.toNat = voltageDuty p r.applVset % 65536 ∧ r.dutyI.toNat = currentDuty p r.applCset % 65536

/-- While the output is requested, SPC applies the targets and leaves their duties: it programs a channel when enabling and when
the target is new, and else the duty is that of the target already. -/
theorem applies_targets_of_spcDoes {p : Config.Params} {r q : Regs} {es : List Event} (h : SpcDoes p r q es)
    (hmatch : r.outOn = true → DutiesOfApplied p r) (hen : r.cfgEn = true) :
    q.applVset = r.cfgVset ∧ q.applCset = r.cfgCset ∧ DutiesOfApplied p q := by
  rcases h with ⟨hoff, -⟩ | ⟨-, -, rfl, -⟩ | ⟨hoff, -⟩ | ⟨-, hon, hv, hi, rfl, -⟩ | ⟨-, hon, -, hi, rfl, -⟩ |
    ⟨-, hon, hv, -, rfl, -⟩ | ⟨-, -, -, -, rfl, -⟩
  · exact absurd (hoff.symm.trans hen) Bool.false_ne_true
  · exact ⟨rfl, rfl, BitVec.toNat_ofNat _ _, BitVec.toNat_ofNat _ _⟩
  · exact absurd (hoff.symm.trans hen) Bool.false_ne_true
  · exact ⟨hv.symm, hi.symm, hmatch hon⟩
  · exact ⟨rfl, hi.symm, BitVec.toNat_ofNat _ _, (hmatch hon).right⟩
  · exact ⟨hv.symm, rfl, (hmatch hon).left, BitVec.toNat_ofNat _ _⟩
  · exact ⟨rfl, rfl, BitVec.toNat_ofNat _ _, BitVec.toNat_ofNat _ _⟩

/-- SEQ changes nothing that the duties and the record are about. -/
theorem DutiesOfApplied.congr {p : Config.Params} {r q : Regs} (h : DutiesOfApplied p r) (hspc : SameSpcRegs r q) :
    DutiesOfApplied p q := by
  obtain ⟨-, hv, hi, hvappl, hcappl⟩ := hspc
  rwa [DutiesOfApplied, hv, hi, hvappl, hcappl]

/-- Settles O48: the SPC part of the tick starts from the host's and SPC's registers of before. -/
theorem tickHonoursTheRequest : Obligations.TickHonoursTheRequest := by
  intro s t rdy cc aux raw hmatch htick
  obtain ⟨q, seq, spc, -, -, hspc, ⟨hen, hvset, hcset, -⟩, hown⟩ := exec_tick_spcDoes htick
  obtain ⟨hon, -⟩ := setpointEvents_of_spcDoes hspc
  refine ⟨hon.trans hen, fun hrequested => ?applied⟩
  case applied =>
    have hmatchNow : q.outOn = true → DutiesOfApplied s.params q := fun hon =>
      DutiesOfApplied.congr (hmatch (hown.left.symm.trans hon)) hown
    obtain ⟨hv, hi, hduties⟩ := applies_targets_of_spcDoes hspc hmatchNow (hen.trans hrequested)
    rw [DutiesOfApplied, hv, hi, hvset, hcset] at hduties
    exact ⟨hv.trans hvset, hi.trans hcset, hduties⟩

end Sys2Proof.Proofs

namespace Sys2Proof.Proofs

open Sys2Proof.Machine Sys2Proof.Safety

/-! ### Frames: who writes what (R26) -/

theorem sameHostRegs_refl (r : Regs) : SameHostRegs r r := ⟨rfl, rfl, rfl, rfl, rfl, rfl, rfl, rfl, rfl, rfl⟩
theorem sameSeqRegs_refl (r : Regs) : SameSeqRegs r r := ⟨rfl, rfl, rfl, rfl, rfl, rfl, rfl, rfl, rfl, rfl, rfl⟩
theorem sameSpcRegs_refl (r : Regs) : SameSpcRegs r r := ⟨rfl, rfl, rfl, rfl, rfl⟩
theorem flagsKept_refl (r : Regs) : FlagsKept r r := ⟨id, id, id⟩

theorem sameHostRegs_trans {r q q' : Regs} (h : SameHostRegs r q) (h' : SameHostRegs q q') : SameHostRegs r q' := by
  simp_all only [SameHostRegs, and_self]

theorem flagsKept_trans {r q q' : Regs} (h : FlagsKept r q) (h' : FlagsKept q q') : FlagsKept r q' := by
  obtain ⟨hovf, hunf, hduty⟩ := h
  obtain ⟨hovf', hunf', hduty'⟩ := h'
  exact ⟨hovf' ∘ hovf, hunf' ∘ hunf, hduty' ∘ hduty⟩

/-- What a word that is no TICK may do to the registers: nothing of SEQ or SPC changes and no flag is set. -/
def HostFrame (r q : Regs) : Prop := SameSeqRegs r q ∧ SameSpcRegs r q ∧ FlagsKept q r

/-- What a micro-operation of SEQ may do to the registers. -/
def SeqFrame (r q : Regs) : Prop :=
  SameHostRegs r q ∧ SameSpcRegs r q ∧ q.dutyOvf = r.dutyOvf ∧ FlagsKept r q

/-- What a micro-operation of SPC may do to the registers. -/
def SpcFrame (r q : Regs) : Prop :=
  SameHostRegs r q ∧ SameSeqRegs r q ∧ q.calOvf = r.calOvf ∧ q.calUnf = r.calUnf ∧ FlagsKept r q

theorem hostFrame_refl (r : Regs) : HostFrame r r := ⟨sameSeqRegs_refl r, sameSpcRegs_refl r, flagsKept_refl r⟩
theorem seqFrame_refl (r : Regs) : SeqFrame r r := ⟨sameHostRegs_refl r, sameSpcRegs_refl r, rfl, flagsKept_refl r⟩
theorem spcFrame_refl (r : Regs) : SpcFrame r r :=
  ⟨sameHostRegs_refl r, sameSeqRegs_refl r, rfl, rfl, flagsKept_refl r⟩

/-! The micro-operations of SEQ. -/

theorem calI_seqFrame (raw : Sample) (s : State) : SeqFrame s.regs (calI raw s).regs := by
  rw [calI_spec]
  simp +contextual [SeqFrame, SameHostRegs, SameSpcRegs, FlagsKept]

theorem calVo_seqFrame (raw : Sample) (s : State) : SeqFrame s.regs (calVo raw s).regs := by
  rw [calVo_spec]
  simp +contextual [SeqFrame, SameHostRegs, SameSpcRegs, FlagsKept]

theorem calVi_seqFrame (raw : Sample) (s : State) : SeqFrame s.regs (calVi raw s).regs := by
  rw [calVi_spec]
  simp +contextual [SeqFrame, SameHostRegs, SameSpcRegs, FlagsKept]

theorem calibrate_seqFrame (raw : Sample) (s : State) : SeqFrame s.regs (calibrate raw s).regs := by
  cases hch : s.regs.ch with
  | current => rw [calibrate_of_current raw hch]; exact calI_seqFrame raw s
  | voltageOut => rw [calibrate_of_voltageOut raw hch]; exact calVo_seqFrame raw s
  | voltageIn => rw [calibrate_of_voltageIn raw hch]; exact calVi_seqFrame raw s

/-- The advance writes `CH` alone, which is SEQ's. -/
theorem adcDone_seqFrame (raw : Sample) (s : State) : SeqFrame s.regs (adcDone raw s.start).regs := by
  obtain ⟨hregs, -⟩ := acts_adcDone raw s
  rw [hregs]
  exact calibrate_seqFrame raw s.start

theorem diag_seqFrame (aux : Bool) (s : State) : SeqFrame s.regs (diag aux s).regs := by
  rw [diag_eq_doing]
  exact seqFrame_refl s.regs

/-! The micro-operations of SPC, from their closed forms; `DUTY_OVF` is only ever added to. -/

theorem noteDuty_spcFrame (sp m d : Word) (r : Regs) : SpcFrame r (noteDuty sp m d r) := by
  rw [noteDuty_spec]
  simp +contextual [SpcFrame, SameHostRegs, SameSeqRegs, FlagsKept]

theorem progV_spcFrame (s : State) : SpcFrame s.regs (progV s).regs := by
  rw [progV_eq_doing]
  simp +contextual [SpcFrame, SameHostRegs, SameSeqRegs, FlagsKept]

theorem progI_spcFrame (s : State) : SpcFrame s.regs (progI s).regs := by
  rw [progI_eq_doing]
  simp +contextual [SpcFrame, SameHostRegs, SameSeqRegs, FlagsKept]

theorem spEnable_spcFrame (s : State) : SpcFrame s.regs (spEnable s).regs := by
  rw [spEnable_eq_doing]
  simp +contextual [SpcFrame, SameHostRegs, SameSeqRegs, FlagsKept]

theorem spDisable_spcFrame (s : State) : SpcFrame s.regs (spDisable s).regs := by
  rw [spDisable_eq_doing]
  exact spcFrame_refl s.regs

theorem spReconcile_spcFrame (s : State) : SpcFrame s.regs (spReconcile s).regs := by
  rw [spReconcile, reconcileV_eq_doing, reconcileI_eq_doing]
  simp +contextual [SpcFrame, SameHostRegs, SameSeqRegs, FlagsKept]

/-! Words. -/

theorem step_hostFrame {s t : State} {w : OpWord} (hstep : step (s.present w) = .next t) (hkind : w.kind ≠ 0b11#2) :
    HostFrame s.regs t.regs := by
  obtain ⟨t', hstep', -, -, hcases⟩ := step_present_cases s w
  cases hstep'.symm.trans hstep
  rcases hcases with ⟨-, hregs, -⟩ | ⟨-, x, -, -, -, hregs, -⟩ | ⟨htick, -⟩ | ⟨htick, -⟩
  · rw [hregs]; exact hostFrame_refl s.regs
  · rw [hregs]; exact regWrite_frame x w.data s.regs
  · exact absurd htick hkind
  · exact absurd htick hkind

/-- A tick writes no register of the host and clears no flag: neither of its units does. -/
theorem exec_tick_frame {rdy cc aux : Bool} {raw : Sample} {s t : State} (h : exec (.tick rdy cc aux raw) s = .next t) :
    SameHostRegs s.regs t.regs ∧ FlagsKept s.regs t.regs := by
  obtain ⟨q, r, adc, spc, hadc, hspc, htick⟩ := exec_tick_spec rdy cc aux raw s
  cases htick.symm.trans h
  obtain ⟨hseqHost, -⟩ := hadc.frame
  obtain ⟨hspcHost, -⟩ := hspc.frame
  exact ⟨sameHostRegs_trans (q := { q with ccActive := cc, auxLast := aux }) hseqHost hspcHost,
    flagsKept_trans (q := { q with ccActive := cc, auxLast := aux }) hadc.flagsKept hspc.flagsKept⟩

theorem step_tick_frame {s t : State} {w : OpWord} (hstep : step (s.present w) = .next t) (hkind : w.kind = 0b11#2) :
    SameHostRegs s.regs t.regs ∧ FlagsKept s.regs t.regs := by
  obtain ⟨t', hstep', -, -, hcases⟩ := step_present_cases s w
  cases hstep'.symm.trans hstep
  rcases hcases with ⟨hnot, -⟩ | ⟨hwrite, -⟩ | ⟨-, hregs, -⟩ | ⟨-, -, htick⟩
  · exact absurd hkind hnot
  · exact absurd (hwrite.symm.trans hkind) (by decide)
  · rw [hregs]; exact ⟨sameHostRegs_refl s.regs, flagsKept_refl s.regs⟩
  · exact exec_tick_frame htick

/-- The views of the multiplier read the host's registers only (R65). -/
theorem mulViews_congr {r q : Regs} (h : SameHostRegs r q) : mulP q = mulP r ∧ mulPh q = mulPh r := by
  obtain ⟨-, -, -, -, -, -, -, -, hx, hy⟩ := h
  rw [mulP, mulPh, hx, hy]
  exact ⟨rfl, rfl⟩

/-- A relation of the registers before and after one outcome of an instruction holds of every outcome, for there is one. -/
theorem frame_of_exec {Frame : Regs → Regs → Prop} {i : Instr} {s u : State} (hexec : exec i s = .next u)
    (hframe : Frame s.regs u.regs) (t : State) (h : exec i s = .next t) : Frame s.regs t.regs := by
  cases hexec.symm.trans h
  exact hframe

/-- Settles O52: words by kind, and each micro-operation by the frame of its unit. -/
theorem eachRegisterHasOneWriter : Obligations.EachRegisterHasOneWriter := by
  refine ⟨fun s t w hstep => ⟨fun hkind => step_hostFrame hstep hkind, fun hkind => ?tick⟩, fun s t raw cc aux => ?seq,
    fun s t sp m d => ?spc⟩
  case tick =>
    obtain ⟨hhost, hflags⟩ := step_tick_frame hstep hkind
    exact ⟨hhost, hflags, mulViews_congr hhost⟩
  case seq =>
    simp only [List.forall_mem_cons]
    exact ⟨frame_of_exec (Frame := SeqFrame) (exec_adcKick s) (seqFrame_refl s.regs) t,
      frame_of_exec (Frame := SeqFrame) (exec_adcDone raw s) (adcDone_seqFrame raw s) t,
      frame_of_exec (Frame := SeqFrame) (exec_adcWait s) (seqFrame_refl s.regs) t,
      frame_of_exec (Frame := SeqFrame) (exec_calI raw s) (calI_seqFrame raw s.start) t,
      frame_of_exec (Frame := SeqFrame) (exec_calVo raw s) (calVo_seqFrame raw s.start) t,
      frame_of_exec (Frame := SeqFrame) (exec_calVi raw s) (calVi_seqFrame raw s.start) t,
      frame_of_exec (Frame := SeqFrame) (exec_disp raw s) (seqFrame_refl s.regs) t,
      frame_of_exec (Frame := SeqFrame) (exec_sense cc s) (seqFrame_refl s.regs) t,
      frame_of_exec (Frame := SeqFrame) (exec_diag aux s) (diag_seqFrame aux s.start) t, fun _ hi => absurd hi List.not_mem_nil⟩
  case spc =>
    simp only [List.forall_mem_cons]
    refine ⟨fun hduty => ?duty,
      frame_of_exec (Frame := SpcFrame) (exec_progV s) (progV_spcFrame s.start) t,
      frame_of_exec (Frame := SpcFrame) (exec_progI s) (progI_spcFrame s.start) t,
      frame_of_exec (Frame := SpcFrame) (exec_spEnable s) (spEnable_spcFrame s.start) t,
      frame_of_exec (Frame := SpcFrame) (exec_spDisable s) (spDisable_spcFrame s.start) t,
      frame_of_exec (Frame := SpcFrame) (exec_spReconcile s) (spReconcile_spcFrame s.start) t,
      frame_of_exec (Frame := SpcFrame) (exec_spHold s) (spcFrame_refl s.regs) t, fun _ hi => absurd hi List.not_mem_nil⟩
    by_cases hm : m = 0
    · rw [hm, exec_duty_zero] at hduty
      cases hduty
    · exact frame_of_exec (Frame := SpcFrame) (exec_duty_of_ne_zero hm sp d s) (noteDuty_spcFrame sp m d s.regs) t hduty

end Sys2Proof.Proofs

namespace Sys2Proof.Proofs

open Sys2Proof.Machine Sys2Proof.Safety

/-! ### Sticky flags (R24) -/

theorem decodeWr_of_status {a : Addr} (h : regAt a = some .status) (d : Word) : decodeWr a d = .wrStatus d := by
  have haddr : a = 0x1E#5 := by decide +revert
  rw [haddr]
  rfl

/-- A host write clears a flag only if it is that of `STATUS`. -/
theorem regWrite_flagsKept {x : Reg} (hx : x ≠ .status) (d : Word) (r : Regs) : FlagsKept r (regWrite x d r) := by
  cases x with
  | status => exact absurd rfl hx
  | _ => exact flagsKept_refl r

/-- Presenting a word keeps the flags, or it is a `WR STATUS` and clears those its data selects. -/
theorem step_flags {s t : State} {w : OpWord} (hstep : step (s.present w) = .next t) :
    FlagsKept s.regs t.regs ∨ ∃ d, decode w = .instr (.wrStatus d) ∧ t.regs = clearFlags d s.regs := by
  by_cases hkind : w.kind = 0b11#2
  · exact .inl (step_tick_frame hstep hkind).right
  · obtain ⟨t', hstep', -, -, hcases⟩ := step_present_cases s w
    cases hstep'.symm.trans hstep
    rcases hcases with ⟨-, hregs, -⟩ | ⟨-, x, hdecode, hreg, -, hregs, -⟩ | ⟨htick, -⟩ | ⟨htick, -⟩
    · rw [hregs]; exact .inl (flagsKept_refl s.regs)
    · rw [hregs]
      by_cases hx : x = .status
      · subst hx
        exact .inr ⟨w.data, by rw [hdecode, decodeWr_of_status hreg], rfl⟩
      · exact .inl (regWrite_flagsKept hx w.data s.regs)
    · exact absurd htick hkind
    · exact absurd htick hkind

/-- Write-one-to-clear, read backwards. -/
theorem bit_of_cleared {flag b : Bool} (hset : flag = true) (hclear : (flag && !b) = false) : b = true := by
  simpa [hset] using hclear

/-- Settles O55: a word that does not keep the flags is a `WR STATUS`, which clears a flag only where its bit is 1. -/
theorem flagsStickUntilCleared : Obligations.FlagsStickUntilCleared := by
  intro s t w hstep
  rcases step_flags hstep with ⟨hovf, hunf, hduty⟩ | ⟨d, hdecode, hregs⟩
  · exact ⟨fun hset hclear => absurd (hclear.symm.trans (hovf hset)) Bool.false_ne_true,
      fun hset hclear => absurd (hclear.symm.trans (hunf hset)) Bool.false_ne_true,
      fun hset hclear => absurd (hclear.symm.trans (hduty hset)) Bool.false_ne_true⟩
  · rw [hregs]
    exact ⟨fun hset hclear => ⟨d, hdecode, bit_of_cleared hset hclear⟩,
      fun hset hclear => ⟨d, hdecode, bit_of_cleared hset hclear⟩,
      fun hset hclear => ⟨d, hdecode, bit_of_cleared hset hclear⟩⟩

end Sys2Proof.Proofs

namespace Sys2Proof.Proofs

open Sys2Proof.Machine Sys2Proof.Safety

/-! ### The machine's invariant (R18, R20, R27) -/

/-- Settles O51: each part is one of the reset registers, which are all 0. -/
theorem resetMeetsInvariant : Obligations.ResetMeetsInvariant := by
  have hreset (p : Config.Params) : MachineInv (State.resetWith p) :=
    ⟨fun _ => ⟨rfl, rfl, rfl, rfl⟩, fun hon => absurd hon Bool.false_ne_true,
      fun _ => ⟨sameSeqRegs_refl _, sameSpcRegs_refl _, rfl, rfl, rfl⟩, rfl⟩
  exact ⟨hreset Config.pset0, hreset⟩

/-! Each part looks only at the registers of one unit, and `IdleUntouched` also at the flags. -/

theorem offRecordClear_congr {r q : Regs} (h : OffRecordClear r) (hspc : SameSpcRegs r q) : OffRecordClear q := by
  obtain ⟨hon, hv, hi, hvappl, hcappl⟩ := hspc
  rwa [OffRecordClear, hon, hv, hi, hvappl, hcappl]

theorem accIsLastCalibrated_congr {r q : Regs} (h : AccIsLastCalibrated r) (hseq : SameSeqRegs r q) :
    AccIsLastCalibrated q := by
  obtain ⟨-, -, -, hcout, hvout, hvin, hacc, hch, -⟩ := hseq
  rwa [AccIsLastCalibrated, hacc, hch, hcout, hvout, hvin]

/-- A clear flag stays clear where none is set. -/
theorem clear_of_kept {before after : Bool} (hkept : after = true → before = true) (hclear : before = false) :
    after = false :=
  Bool.eq_false_iff.mpr fun hset => Bool.false_ne_true (hclear.symm.trans (hkept hset))

theorem idleUntouched_congr {r q : Regs} (h : IdleUntouched r) (hframe : HostFrame r q) : IdleUntouched q := by
  obtain ⟨hseq, hspc, hovf, hunf, hduty⟩ := hframe
  intro hidle
  obtain ⟨-, -, -, -, -, -, -, -, hbusy, -⟩ := id hseq
  obtain ⟨hseqReset, hspcReset, hovfClear, hunfClear, hdutyClear⟩ := h (hbusy.symm.trans hidle)
  refine ⟨?_, ?_, clear_of_kept hovf hovfClear, clear_of_kept hunf hunfClear, clear_of_kept hduty hdutyClear⟩
  · simp_all only [SameSeqRegs, and_self]
  · simp_all only [SameSpcRegs, and_self]

/-- What writes neither SEQ's nor SPC's registers and sets no flag keeps the invariant. -/
theorem machineInv_of_hostFrame {s t : State} (h : MachineInv s) (hparams : t.params = s.params)
    (hframe : HostFrame s.regs t.regs) : MachineInv t := by
  obtain ⟨hoff, hmatch, hidle, hacc⟩ := h
  obtain ⟨hseq, hspc, -⟩ := id hframe
  refine ⟨offRecordClear_congr hoff hspc, fun hon => ?duties, idleUntouched_congr hidle hframe,
    accIsLastCalibrated_congr hacc hseq⟩
  case duties =>
    have hduties : DutiesOfApplied s.params s.regs := hmatch (hspc.left.symm.trans hon)
    exact hparams ▸ hduties.congr hspc

/-- A completion stores the accumulator in the register of the channel that it leaves behind (R76); a start and a wait leave
both. -/
theorem accIsLastCalibrated_of_adcDoes {rdy : Bool} {raw : Sample} {r q : Regs} {es : List Event}
    (h : AdcDoes rdy raw r q es) (hr : AccIsLastCalibrated r) : AccIsLastCalibrated q := by
  rcases h with ⟨-, rfl, -⟩ | ⟨-, -, rfl, -⟩ | ⟨-, -, -, -, rfl⟩ | ⟨-, -, -, -, rfl⟩ | ⟨-, -, -, -, rfl⟩
  · exact hr
  · exact hr
  all_goals rfl

/-- SPC turns the output off only by clearing the record, and keeps it clear while off. -/
theorem offRecordClear_of_spcDoes {p : Config.Params} {r q : Regs} {es : List Event} (h : SpcDoes p r q es)
    (hr : OffRecordClear r) : OffRecordClear q := by
  rcases h with ⟨-, -, rfl, -⟩ | ⟨-, -, rfl, -⟩ | ⟨-, -, rfl, -⟩ | ⟨-, -, -, -, rfl, -⟩ | ⟨-, hon, -, -, rfl, -⟩ |
    ⟨-, hon, -, -, rfl, -⟩ | ⟨-, hon, -, -, rfl, -⟩
  · exact hr
  · exact fun hoff => absurd hoff.symm Bool.false_ne_true
  · exact fun _ => ⟨rfl, rfl, rfl, rfl⟩
  · exact hr
  all_goals exact fun hoff => absurd (hoff.symm.trans hon) Bool.false_ne_true

/-- A tick keeps the invariant: SEQ leaves what the record's parts look at, SPC what the accumulator's looks at, and `BUSY` is set
from then on. -/
theorem exec_tick_machineInv {rdy cc aux : Bool} {raw : Sample} {s t : State} (h : MachineInv s)
    (hexec : exec (.tick rdy cc aux raw) s = .next t) : MachineInv t := by
  obtain ⟨hoff, hmatch, -, hacc⟩ := h
  obtain ⟨q, r, adc, spc, hadc, hspc, htick⟩ := exec_tick_spec rdy cc aux raw s
  cases htick.symm.trans hexec
  obtain ⟨-, hown, -⟩ := hadc.frame
  obtain ⟨-, hseq, -⟩ := hspc.frame
  obtain ⟨hon, -⟩ := setpointEvents_of_spcDoes hspc
  have hset : q.busy = true := busy_of_adcDoes hadc
  have haccNow : AccIsLastCalibrated q := accIsLastCalibrated_of_adcDoes hadc hacc
  refine ⟨offRecordClear_of_spcDoes hspc (offRecordClear_congr hoff hown), fun honNow => ?duties, fun hidle => ?idle,
    accIsLastCalibrated_congr (r := { q with ccActive := cc, auxLast := aux }) haccNow hseq⟩
  case duties =>
    have hmatchNow : q.outOn = true → DutiesOfApplied s.params q := fun hqOn =>
      DutiesOfApplied.congr (hmatch (hown.left.symm.trans hqOn)) hown
    obtain ⟨-, -, hduties⟩ := applies_targets_of_spcDoes hspc hmatchNow (hon.symm.trans honNow)
    exact hduties
  case idle =>
    obtain ⟨-, -, -, -, -, -, -, -, hbusy, -⟩ := hseq
    exact absurd (hidle.symm.trans (hbusy.trans hset)) Bool.false_ne_true

theorem step_present_machineInv {s t : State} {w : OpWord} (h : MachineInv s) (hstep : step (s.present w) = .next t) :
    MachineInv t := by
  by_cases hkind : w.kind = 0b11#2
  · obtain ⟨t', hstep', hparams, -, hcases⟩ := step_present_cases s w
    cases hstep'.symm.trans hstep
    rcases hcases with ⟨hnot, -⟩ | ⟨hwrite, -⟩ | ⟨-, hregs, -⟩ | ⟨-, -, htick⟩
    · exact absurd hkind hnot
    · exact absurd (hwrite.symm.trans hkind) (by decide)
    · exact machineInv_of_hostFrame h hparams (hregs ▸ hostFrame_refl s.regs)
    · exact exec_tick_machineInv h htick
  · obtain ⟨t', hstep', hparams, -⟩ := step_present_cases s w
    cases hstep'.symm.trans hstep
    exact machineInv_of_hostFrame h hparams (step_hostFrame hstep hkind)

/-- Settles O50: IDLE keeps the registers, reset meets the invariant from anywhere, and a word keeps it. -/
theorem stepKeepsInvariant : Obligations.StepKeepsInvariant := by
  intro s t h hstep
  rcases hpending : s.pending with _ | ⟨_ | w, rest⟩
  · cases (step_of_pending_nil hpending).symm.trans hstep
    exact machineInv_of_hostFrame h rfl (hostFrame_refl s.regs)
  case cons.word w =>
    rw [← present_taken_of_pending_word hpending] at hstep
    exact step_present_machineInv (s := s.taken) h hstep
  case cons.reset =>
    cases (step_of_pending_reset hpending).symm.trans hstep
    exact resetMeetsInvariant.right s.params

end Sys2Proof.Proofs

namespace Sys2Proof.Proofs

open Sys2Proof.Machine Sys2Proof.Safety

/-! ### SPC never reads a measurement (R83) -/

/-- The registers that SPC reads or writes are equal. -/
def SameSpcInputs (r q : Regs) : Prop :=
  q.cfgEn = r.cfgEn ∧ q.cfgVset = r.cfgVset ∧ q.cfgCset = r.cfgCset ∧ SameSpcRegs r q ∧ q.dutyOvf = r.dutyOvf

theorem sameForSpc_iff (s t : State) : SameForSpc s t ↔ t.params = s.params ∧ SameSpcInputs s.regs t.regs := Iff.rfl

/-- What SPC does from `r` it also does from registers that look the same to it, with the same events, and leaves registers that
look the same. -/
theorem exists_spcDoes_of_sameSpcInputs {p : Config.Params} {r r' q : Regs} {es : List Event} (h : SpcDoes p r q es)
    (hin : SameSpcInputs r r') : ∃ q', SpcDoes p r' q' es ∧ SameSpcInputs q q' := by
  obtain ⟨hen, hv, hi, ⟨hon, hdv, hdi, hav, hai⟩, hovf⟩ := id hin
  rcases h with ⟨hreq, hstate, rfl, rfl⟩ | ⟨hreq, hstate, rfl, rfl⟩ | ⟨hreq, hstate, rfl, rfl⟩ |
    ⟨hreq, hstate, hvNew, hiNew, rfl, rfl⟩ | ⟨hreq, hstate, hvNew, hiNew, rfl, rfl⟩ |
    ⟨hreq, hstate, hvNew, hiNew, rfl, rfl⟩ | ⟨hreq, hstate, hvNew, hiNew, rfl, rfl⟩ <;>
    simp [SpcDoes, SameSpcInputs, SameSpcRegs, *]

/-- What SPC does is a function of the registers that it looks at, and of the parameters. -/
theorem spcDoes_congr {p : Config.Params} {r r' q q' : Regs} {es es' : List Event} (h : SpcDoes p r q es)
    (h' : SpcDoes p r' q' es') (hin : SameSpcInputs r r') : SameSpcInputs q q' ∧ es' = es := by
  obtain ⟨q'', h'', hout⟩ := exists_spcDoes_of_sameSpcInputs h hin
  obtain ⟨rfl, rfl⟩ := h'.unique h''
  exact ⟨hout, rfl⟩

/-- The SPC part of a tick starts from registers that look to SPC as those before the tick, and its events are the tick's. -/
theorem exec_tick_spcPart (rdy cc aux : Bool) (raw : Sample) (s : State) :
    ∃ t q spc, exec (.tick rdy cc aux raw) s = .next t ∧ t.params = s.params ∧ SameSpcInputs s.regs q ∧
      SpcDoes s.params q t.regs spc ∧ t.resp.events.filter isSpc = spc := by
  obtain ⟨q, r, adc, spc, hadc, hspc, htick⟩ := exec_tick_spec rdy cc aux raw s
  obtain ⟨⟨hen, hv, hi, -⟩, hown, hovf⟩ := hadc.frame
  obtain ⟨hdiag, -⟩ := diagEvents_filters aux s.regs
  obtain ⟨hspcOnly, -⟩ := hspc.only_spc_events
  refine ⟨_, { q with ccActive := cc, auxLast := aux }, spc, htick, rfl, ⟨hen, hv, hi, hown, hovf⟩, hspc, ?_⟩
  change (adc ++ diagEvents aux s.regs ++ spc).filter isSpc = spc
  rw [List.filter_append, List.filter_append, hadc.no_spc_event, hdiag, hspcOnly, List.nil_append, List.nil_append]

theorem sameSpcInputs_symm {r q : Regs} (h : SameSpcInputs r q) : SameSpcInputs q r := by
  simp_all only [SameSpcInputs, SameSpcRegs, and_self]

theorem sameSpcInputs_trans {r q q' : Regs} (h : SameSpcInputs r q) (h' : SameSpcInputs q q') : SameSpcInputs r q' := by
  simp_all only [SameSpcInputs, SameSpcRegs, and_self]

/-- A host write does the same to what SPC looks at, whatever the other registers hold. -/
theorem regWrite_sameSpcInputs (x : Reg) (d : Word) {r q : Regs} (h : SameSpcInputs r q) :
    SameSpcInputs (regWrite x d r) (regWrite x d q) := by
  obtain ⟨hen, hv, hi, hown, hovf⟩ := id h
  cases x with
  | cfgOutput => exact ⟨rfl, hv, hi, hown, hovf⟩
  | cfgVset => exact ⟨hen, rfl, hi, hown, hovf⟩
  | cfgCset => exact ⟨hen, hv, rfl, hown, hovf⟩
  | status => exact ⟨hen, hv, hi, hown, congrArg (· && !d.getLsbD 2) hovf⟩
  | _ => exact h

/-- The effect of a word that is no TICK is none at all or a host write, the same in every state. -/
theorem hostEffect_cases (w : OpWord) :
    (∀ r, hostEffect w r = r) ∨ ∃ x, ∀ r, hostEffect w r = regWrite x w.data r := by
  unfold hostEffect
  cases decode w with
  | malformed why => exact .inl fun _ => rfl
  | instr i =>
    by_cases hkind : w.kind = 0b10#2
    · cases regAt w.addr with
      | none => exact .inl fun _ => by simp
      | some x =>
        by_cases hro : x.access = .ro
        · exact .inl fun _ => by simp [hro]
        · exact .inr ⟨x, fun _ => by simp [hkind, hro]⟩
    · exact .inl fun _ => by simp [hkind]

theorem hostEffect_sameSpcInputs (w : OpWord) {r q : Regs} (h : SameSpcInputs r q) :
    SameSpcInputs (hostEffect w r) (hostEffect w q) := by
  rcases hostEffect_cases w with hnone | ⟨x, hwrite⟩
  · rwa [hnone, hnone]
  · rw [hwrite, hwrite]
    exact regWrite_sameSpcInputs x w.data h

/-- The states `s'` and `t'` that the words `v` and `w` lead to look the same to SPC, and it emitted the same events. -/
def StepsAlike (s t : State) (v w : OpWord) : Prop :=
  ∃ s' t', step (s.present v) = .next s' ∧ step (t.present w) = .next t' ∧ SameForSpc s' t' ∧
    s'.resp.events.filter isSpc = t'.resp.events.filter isSpc

/-- Two ticks, whatever is sampled at each. -/
theorem stepsAlike_of_ticks {s t : State} {v w : OpWord} {rdy cc aux rdy' cc' aux' : Bool} {raw raw' : Sample}
    (h : SameForSpc s t) (hv : decode v = .instr (.tick rdy cc aux raw)) (hw : decode w = .instr (.tick rdy' cc' aux' raw')) :
    StepsAlike s t v w := by
  obtain ⟨hparams, hregs⟩ := (sameForSpc_iff s t).mp h
  obtain ⟨s', q, spc, hs', hsParams, hq, hspc, hevents⟩ := exec_tick_spcPart rdy cc aux raw s
  obtain ⟨t', q', spc', ht', htParams, hq', hspc', hevents'⟩ := exec_tick_spcPart rdy' cc' aux' raw' t
  have hstarts : SameSpcInputs q q' := sameSpcInputs_trans (sameSpcInputs_symm hq) (sameSpcInputs_trans hregs hq')
  rw [hparams] at hspc'
  obtain ⟨hends, rfl⟩ := spcDoes_congr hspc hspc' hstarts
  refine ⟨s', t', (step_present_instr hv).trans hs', (step_present_instr hw).trans ht', ⟨?_, hends⟩, hevents.trans hevents'.symm⟩
  rw [htParams, hparams, hsParams]

/-- The same word twice: a TICK, a rejected word, or the host's. -/
theorem stepsAlike_of_same_word {s t : State} (h : SameForSpc s t) (w : OpWord) : StepsAlike s t w w := by
  obtain ⟨hparams, hregs⟩ := (sameForSpc_iff s t).mp h
  by_cases hkind : w.kind = 0b11#2
  · cases hdecode : decode w with
    | malformed why => exact ⟨_, _, step_present_malformed hdecode, step_present_malformed hdecode, ⟨hparams, hregs⟩, rfl⟩
    | instr i =>
      rw [decode_of_kind_tick hkind] at hdecode
      split at hdecode
      next hzeros =>
        have htick : decode w = .instr (.tick w.rdy w.cc w.aux w.raw) := by rw [decode_of_kind_tick hkind, if_pos hzeros]
        exact stepsAlike_of_ticks h htick htick
      next => cases hdecode
  · obtain ⟨s', hs', hsParams, -, hsEvents, hsRegs⟩ := step_host s hkind
    obtain ⟨t', ht', htParams, -, htEvents, htRegs⟩ := step_host t hkind
    refine ⟨s', t', hs', ht', ⟨?_, ?_⟩, by rw [hsEvents, htEvents]⟩
    · rw [htParams, hparams, hsParams]
    · rw [hsRegs, htRegs]
      exact hostEffect_sameSpcInputs w hregs

theorem stepsAlike_of_sameButTickInputs {s t : State} {v w : OpWord} (h : SameForSpc s t) (hvw : SameButTickInputs v w) :
    StepsAlike s t v w := by
  rcases hvw with rfl | ⟨⟨rdy, cc, aux, raw, rfl⟩, rdy', cc', aux', raw', rfl⟩
  · exact stepsAlike_of_same_word h v
  · exact stepsAlike_of_ticks h (decode_tickWord rdy cc aux raw) (decode_tickWord rdy' cc' aux' raw')

/-- Settles O58: the step lemma carried over the two runs, word by word. -/
theorem setpointsIgnoreMeasurements : Obligations.SetpointsIgnoreMeasurements := by
  intro s t vs ws h hwords
  induction hwords generalizing s t with
  | nil => exact ⟨h, rfl⟩
  | cons hvw _ ih =>
    obtain ⟨s', t', hs', ht', hnext, hevents⟩ := stepsAlike_of_sameButTickInputs h hvw
    obtain ⟨hfinal, htrace⟩ := ih s' t' hnext
    rw [finalState_cons hs', finalState_cons ht', trace_cons hs', trace_cons ht', List.filter_append, List.filter_append,
      hevents, htrace]
    exact ⟨hfinal, rfl⟩

end Sys2Proof.Proofs

namespace Sys2Proof.Proofs

open Sys2Proof.Machine Sys2Proof.Safety

/-! ### Of two writes the last wins (R39, R129) -/

/-- A second write of a register leaves nothing of the first; not so for `STATUS`, which clears by the old value (R40). -/
theorem regWrite_overwrite {x : Reg} (hx : x ≠ .status) (d e : Word) (r : Regs) :
    regWrite x e (regWrite x d r) = regWrite x e r := by
  cases x with
  | status => exact absurd rfl hx
  | _ => rfl

/-- Writes of different registers commute: a read-only one is not written, and no two of the others share a field. -/
theorem regWrite_comm {x y : Reg} (hxy : x ≠ y) (d e : Word) (r : Regs) :
    regWrite x e (regWrite y d r) = regWrite y d (regWrite x e r) := by
  cases x with
  | mulP | mulPh | rawCout | rawVout | rawVin | cout | vout | vin | acc | seqStat | spcStat | dutyV | dutyI | applVset
  | applCset => rfl
  | _ => cases y <;> simp [regWrite, clearFlags] at hxy ⊢

/-- So a write makes no more difference than there was if the same register is written afterwards. -/
theorem regWrite_congr_of_overwritten {x : Reg} (hx : x ≠ .status) (e : Word) (y : Reg) (d : Word) {r q : Regs}
    (h : regWrite x e q = regWrite x e r) : regWrite x e (regWrite y d q) = regWrite x e (regWrite y d r) := by
  by_cases hxy : x = y
  · subst hxy
    rw [regWrite_overwrite hx, regWrite_overwrite hx, h]
  · rw [regWrite_comm hxy, regWrite_comm hxy, h]

theorem regWrite_of_readOnly {x : Reg} (h : x.access = .ro) (d : Word) (r : Regs) : regWrite x d r = r := by
  cases x with
  | cfgOutput | cfgVset | cfgCset | calVin | calVoutA | calVoutB | calCoutA | calCoutB | mulX | mulY | status => cases h
  | _ => rfl

/-- The effect of a WR word; the write of a read-only register would change nothing either. -/
theorem hostEffect_wrWord (a : Addr) (d : Word) (r : Regs) :
    hostEffect (wrWord a d) r = (match regAt a with | some x => regWrite x d r | none => r) := by
  have hkind : (wrWord a d).kind = 0b10#2 := accessWord_kind 0b10#2 a d
  have haddr : (wrWord a d).addr = a := accessWord_addr 0b10#2 a d
  have hdata : (wrWord a d).data = d := accessWord_data 0b10#2 a d
  unfold hostEffect
  rw [decode_wrWord, hkind, haddr, hdata]
  cases regAt a with
  | none => rfl
  | some x =>
    by_cases hro : x.access = .ro
    · simp [hro, regWrite_of_readOnly hro]
    · simp [hro]

theorem regAt_ne_status {a : Addr} (h : a ≠ 0x1E#5) : regAt a ≠ some .status := by decide +revert

/-- A word that is no TICK makes no more difference than there was if the register of `a` is written afterwards. -/
theorem hostEffect_congr_of_overwritten {a : Addr} (ha : a ≠ 0x1E#5) (e : Word) (w : OpWord) {r q : Regs}
    (h : hostEffect (wrWord a e) q = hostEffect (wrWord a e) r) :
    hostEffect (wrWord a e) (hostEffect w q) = hostEffect (wrWord a e) (hostEffect w r) := by
  rcases hostEffect_cases w with hnone | ⟨y, hwrite⟩
  · rwa [hnone, hnone]
  · simp only [hwrite, hostEffect_wrWord] at h ⊢
    cases hreg : regAt a with
    | none => simp_all only
    | some x =>
      rw [hreg] at h
      exact regWrite_congr_of_overwritten (fun hx => regAt_ne_status ha (hx ▸ hreg)) e y w.data h

theorem hostEffect_overwrite {a : Addr} (ha : a ≠ 0x1E#5) (d e : Word) (r : Regs) :
    hostEffect (wrWord a e) (hostEffect (wrWord a d) r) = hostEffect (wrWord a e) r := by
  simp only [hostEffect_wrWord]
  cases hreg : regAt a with
  | none => rfl
  | some x => exact regWrite_overwrite (fun hx => regAt_ne_status ha (hx ▸ hreg)) d e r

/-- The states differ at most in what the word `w` overwrites, and in the response. -/
def AgreeOnce (w : OpWord) (s t : State) : Prop :=
  t.params = s.params ∧ t.pending = s.pending ∧ hostEffect w t.regs = hostEffect w s.regs

/-- Two states that differ only in the response start an operation alike. -/
theorem start_eq_start {s t : State} (hregs : t.regs = s.regs) (hparams : t.params = s.params)
    (hpending : t.pending = s.pending) : t.start = s.start := by
  rw [State.start, State.start, hregs, hparams, hpending]

theorem wrWord_kind_ne_tick (a : Addr) (d : Word) : (wrWord a d).kind ≠ 0b11#2 := by
  rw [wrWord_eq_accessWord, accessWord_kind]
  decide

/-- Two runs of the same words agree from where the difference of their first states is overwritten on, and before that they emit
nothing. -/
theorem run_agrees_of_overwritten {a : Addr} (ha : a ≠ 0x1E#5) (e : Word) (after : List OpWord) {between : List OpWord}
    (hbetween : ∀ w ∈ between, w.kind ≠ 0b11#2) {s t : State} (h : AgreeOnce (wrWord a e) s t) :
    (finalState t (between ++ wrWord a e :: after)).regs = (finalState s (between ++ wrWord a e :: after)).regs ∧
      trace t (between ++ wrWord a e :: after) = trace s (between ++ wrWord a e :: after) := by
  induction between generalizing s t with
  | nil =>
    obtain ⟨hparams, hpending, hregs⟩ := h
    obtain ⟨s', hs', hsParams, hsPending, hsEvents, hsRegs⟩ := step_host s (wrWord_kind_ne_tick a e)
    obtain ⟨t', ht', htParams, htPending, htEvents, htRegs⟩ := step_host t (wrWord_kind_ne_tick a e)
    have hstart : t'.start = s'.start :=
      start_eq_start (by rw [hsRegs, htRegs, hregs]) (by rw [htParams, hparams, hsParams])
        (by rw [htPending, hpending, hsPending])
    obtain ⟨hsFinal, hsTrace⟩ := run_start s' after
    obtain ⟨htFinal, htTrace⟩ := run_start t' after
    rw [List.nil_append, finalState_cons hs', finalState_cons ht', trace_cons hs', trace_cons ht', hsEvents, htEvents,
      ← hsFinal, ← htFinal, ← hsTrace, ← htTrace, hstart]
    exact ⟨rfl, rfl⟩
  | cons w ws ih =>
    obtain ⟨hparams, hpending, hregs⟩ := h
    obtain ⟨hkind, hkinds⟩ := List.forall_mem_cons.mp hbetween
    obtain ⟨s', hs', hsParams, hsPending, hsEvents, hsRegs⟩ := step_host s hkind
    obtain ⟨t', ht', htParams, htPending, htEvents, htRegs⟩ := step_host t hkind
    have hnext : AgreeOnce (wrWord a e) s' t' :=
      ⟨by rw [htParams, hparams, hsParams], by rw [htPending, hpending, hsPending], by
        rw [hsRegs, htRegs]; exact hostEffect_congr_of_overwritten ha e w hregs⟩
    obtain ⟨hfinal, htrace⟩ := ih hkinds hnext
    rw [List.cons_append, finalState_cons hs', finalState_cons ht', trace_cons hs', trace_cons ht', hsEvents, htEvents,
      hfinal, htrace]
    exact ⟨rfl, rfl⟩

/-- Settles O59: the first write emits nothing and makes a difference only in what the second overwrites. -/
theorem lastWriteBeforeTheTickWins : Obligations.LastWriteBeforeTheTickWins := by
  intro s a d e between after ha hbetween
  obtain ⟨t, hstep, hparams, hpending, hevents, hregs⟩ := step_host s (wrWord_kind_ne_tick a d)
  have hagree : AgreeOnce (wrWord a e) s t := ⟨hparams, hpending, by rw [hregs, hostEffect_overwrite ha]⟩
  obtain ⟨hfinal, htrace⟩ := run_agrees_of_overwritten ha e after hbetween hagree
  rw [List.cons_append, finalState_cons hstep, trace_cons hstep, hevents, hfinal, htrace]
  exact ⟨rfl, rfl⟩

end Sys2Proof.Proofs
